-- ==== Sys2Proof/Word.lean ====
section
/-! DEFINITION. The words of the EZ-7040 (R4, R17) and the indices of its parts (R2). -/

namespace Sys2Proof

/-- One byte of device memory or of a scratchpad. -/
abbrev Byte := BitVec 8
/-- A 64-bit scalar, the width of a g register and of an immediate (R17, R57). -/
abbrev W64 := BitVec 64
/-- A 64-byte vector, entry or scale register (R17). -/
abbrev V512 := BitVec 512
/-- A core of the die: bits [8:3] its cluster, bits [2:0] the core within it (R27). -/
abbrev CoreId := BitVec 9
/-- A cluster, numbered row x 8 + column (R27). -/
abbrev ClusterId := BitVec 6
/-- A context, 0 the supervisor's (R244). -/
abbrev CtxId := BitVec 4
/-- A stream of the die (R309). -/
abbrev StrmId := BitVec 6
/-- A register name, 0x00 to 0xFF (R17). -/
abbrev RegName := BitVec 8

end Sys2Proof
end

