-- ==== Sys2Proof/Config.lean ====
section
/-! DEFINITION. What a device fixes by its own calibration, and the values the manual leaves open.
The open ones have no body, so no proof sees what they are. -/

namespace Sys2Proof.Config

/-- Bytes of unlisted device memory and of scratchpads no write has reached.
DESIGN CHOICE (log 2): the manual gives no contents at power-up. -/
def blankByte : Byte := 0

/-- Class weight CWn that calibration at power-up writes, units of 2^-8 pJ (R246, R256): open. -/
opaque classWeight : Nat → BitVec 24
/-- Static weight SW(n) of core n (R380): open. -/
opaque staticWeight : Nat → BitVec 32
/-- Weights per byte of GDDR-7 and of the links, MWB and FWB (R380): open. -/
opaque byteWeight : Bool → BitVec 32
/-- Lowest divisor that calibration finds for cluster k (R376): open. -/
opaque divFloor : Nat → BitVec 4
/-- A value the manual leaves open, taken in the order of the counter `State.free` (log 5). -/
opaque freeNat : Nat → Nat
/-- Byte n of the payload of unit i that encoding number e gives of a frame in codec modes 1 to 3 (R360): open. -/
opaque codecByte : Nat → Nat → List (List Nat) → Nat → Byte
/-- Length of that payload (R360, R361): open. -/
opaque codecLength : Nat → Nat → List (List Nat) → Nat
/-- What the decoders make of a bitstream of a codec (R367): the frames decoded, whether it ends in error, the width and
height of its pictures, and sample (x, y) of a plane of a frame: open. -/
opaque decodedFrames : Nat → List Byte → Nat
opaque decodedBad : Nat → List Byte → Bool
opaque decodedSize : Nat → List Byte → Nat × Nat
opaque decodedSample : Nat → List Byte → Nat → Nat → Nat → Nat → Nat
/-- The n-th byte of the ML-DSA-44 signature over a body (R390): open. -/
opaque signatureByte : List Byte → Nat → Byte
/-- The SHA3-256 digest of a firmware image, and whether the vendor key refuses a signature over a digest (R389): open. -/
opaque sha3 : List Byte → BitVec 256
opaque vendorRefuses : BitVec 256 → List Byte → Bool
/-- Where the nonce stands in an attestation body, and which byte of the firmware digest is the n-th it holds: open
(R393). -/
opaque attestPlace : Nat
opaque attestPick : Nat → Nat
/-- Reading number n of the sentinels of cluster k after power-up: the lowest divisor it calls for (R376): open. -/
opaque agedFloor : Nat → Nat → BitVec 4

/-- Delays in quanta of 1/27 ns that replies take when the delay list of the state is empty: the
manual's guide figures. DESIGN CHOICE (log 3); no statement rests on them. -/
def guideSlice : Nat := 450
def guideCode : Nat := 255
def guideTable : Nat := 600
def guideBracken : Nat := 8100
def guideWindow : Nat := 27000
def guideEncoder : Nat := 750

end Sys2Proof.Config
end

