-- ==== Sys2Proof/Machine/Bits.lean ====
section
/-! DEFINITION. Bit fields, little-endian bytes (R4), sign extension (R7) and sparse tables. -/

namespace Sys2Proof.Machine

/-- bits(x, hi, lo) of R7. -/
def bits (x hi lo : Nat) : Nat := (x >>> lo) % 2 ^ (hi + 1 - lo)

/-- Bit i of x. -/
def bit (x i : Nat) : Bool := x.testBit i

/-- sx(x, n) of R7. -/
def sx (x n : Nat) : Int :=
  let y := x % 2 ^ n
  if n != 0 && y.testBit (n - 1) then (y : Int) - (2 ^ n : Nat) else (y : Int)

/-- zx(x, n) of R7. -/
def zx (x n : Nat) : Nat := x % 2 ^ n

/-- An integer reduced modulo 2^n. -/
def wrap (i : Int) (n : Nat) : Nat := (i % ((2 ^ n : Nat) : Int)).toNat

/-- sat(v, lo, hi) of R7. -/
def sat (v lo hi : Int) : Int := if v < lo then lo else if v > hi then hi else v

/-- Number of bits of x: 0 for 0. -/
def bitLen (x : Nat) : Nat := if x = 0 then 0 else Nat.log2 x + 1

/-- n bytes at byte offset o of a little-endian value (R4). -/
def getBytes (v o n : Nat) : Nat := (v >>> (8 * o)) % 2 ^ (8 * n)

/-- v with the n bytes at offset o replaced by x. -/
def setBytes (v o n x : Nat) : Nat :=
  v - (getBytes v o n) * 2 ^ (8 * o) + (x % 2 ^ (8 * n)) * 2 ^ (8 * o)

/-- Bit field of width w at bit lo replaced by x. -/
def setBits (v lo w x : Nat) : Nat :=
  v - (bits v (lo + w - 1) lo) * 2 ^ lo + (x % 2 ^ w) * 2 ^ lo

/-- The n little-endian bytes of a value (R4). -/
def toBytes : Nat → Nat → List Byte
  | 0, _ => []
  | n + 1, v => BitVec.ofNat 8 v :: toBytes n (v / 256)

/-- The value of little-endian bytes (R4). -/
def ofBytes : List Byte → Nat
  | [] => 0
  | b :: r => b.toNat + 256 * ofBytes r

/-- Lane i of width w of a vector (R128). -/
def lane (w : Nat) (v : V512) (i : Nat) : Nat := (v.toNat >>> (w * i)) % 2 ^ w

/-- Values packed as lanes of width w, the first lowest (R128). -/
def packNat (w : Nat) : List Nat → Nat
  | [] => 0
  | x :: r => x % 2 ^ w + 2 ^ w * packNat w r

/-- Lanes packed into a vector. -/
def pack (w : Nat) (l : List Nat) : V512 := BitVec.ofNat 512 (packNat w l)

/-- The indices 0 to n - 1 in increasing order. -/
def upto (n : Nat) : List Nat := List.range n

/-- The index of the lowest clear bit of x below n. -/
def lowestClear (x n : Nat) : Option Nat := (upto n).find? fun i => !x.testBit i

/-- Ceiling of a / b. -/
def ceilDiv (a b : Nat) : Nat := (a + b - 1) / b

/-- Serial-number order of R13: a is earlier than b, over n bits. -/
def serialLt (n a b : Nat) : Bool :=
  let d := (b + 2 ^ n - a % 2 ^ n) % 2 ^ n
  decide (1 ≤ d) && decide (d ≤ 2 ^ (n - 1) - 1)

/-- The slice index of a physical address (R265). -/
def sliceHash (a : Nat) : BitVec 9 :=
  BitVec.ofNat 9 (bits a 17 9) ^^^ BitVec.ofNat 9 (bits a 26 18) ^^^ BitVec.ofNat 9 (bits a 35 27)
    ^^^ BitVec.ofNat 9 (bits a 44 36) ^^^ BitVec.ofNat 9 (bits a 51 45)

/-- Home cluster of a physical address (R265). -/
def homeCluster (a : Nat) : ClusterId := BitVec.ofNat 6 ((sliceHash a).toNat / 8)

/-- Cluster of a core (R27). -/
def clusterOf (c : CoreId) : ClusterId := BitVec.ofNat 6 (c.toNat / 8)

/-- Core j of cluster k (R27). -/
def coreOf (k : ClusterId) (j : Nat) : CoreId := BitVec.ofNat 9 (8 * k.toNat + j)

/-! ### Sparse tables: keys strictly rising, no entry equal to the value of an unlisted key -/

/-- A table of values by key; an unlisted key has a default value. -/
abbrev Tbl (α : Type) := List (Nat × α)

/-- The value of key k, d when unlisted. -/
def Tbl.get {α : Type} (d : α) : Tbl α → Nat → α
  | [], _ => d
  | (i, v) :: r, k => if i = k then v else Tbl.get d r k

/-- v placed at its key among rising keys. -/
def Tbl.ins {α : Type} (k : Nat) (v : α) : Tbl α → Tbl α
  | [] => [(k, v)]
  | (i, w) :: r => if k < i then (k, v) :: (i, w) :: r else (i, w) :: Tbl.ins k v r

/-- Key k set to v; a default value is not listed. -/
def Tbl.put {α : Type} [DecidableEq α] (d : α) (t : Tbl α) (k : Nat) (v : α) : Tbl α :=
  let r := t.filter fun e => e.1 != k
  if v = d then r else Tbl.ins k v r

/-- Keys strictly rise from above lo, and no entry equals the default. -/
def Tbl.wfFrom {α : Type} [DecidableEq α] (d : α) : Option Nat → Tbl α → Bool
  | _, [] => true
  | lo, (i, v) :: r =>
    (match lo with
      | none => true
      | some l => decide (l < i)) && decide (v ≠ d) && Tbl.wfFrom d (some i) r

/-- The canonical form of a table. -/
def Tbl.wf {α : Type} [DecidableEq α] (d : α) (t : Tbl α) : Bool := Tbl.wfFrom d none t

/-! ### Byte memories -/

/-- Device memory, or a scratchpad: bytes by address in canonical form. -/
abbrev Memory := List Host.Cell

/-- The byte at an address. -/
def Memory.byte (m : Memory) (a : Nat) : Byte := Tbl.get Config.blankByte m a

/-- One byte written. -/
def Memory.setByte (m : Memory) (a : Nat) (b : Byte) : Memory := Tbl.put Config.blankByte m a b

/-- n bytes read from address a, little-endian. -/
def Memory.read (m : Memory) (a : Nat) : Nat → Nat
  | 0 => 0
  | n + 1 => (m.byte a).toNat + 256 * Memory.read m (a + 1) n

/-- n bytes of v written at address a, little-endian. -/
def Memory.write (m : Memory) (a : Nat) : Nat → Nat → Memory
  | 0, _ => m
  | n + 1, v => Memory.write (m.setByte a (BitVec.ofNat 8 v)) (a + 1) n (v / 256)

/-- The canonical form of a memory: addresses strictly rise, no byte equals a blank one. -/
def Memory.wf (m : Memory) : Bool := Tbl.wf Config.blankByte m

/-- List element i replaced. -/
def setAt {α : Type} : List α → Nat → α → List α
  | [], _, _ => []
  | _ :: r, 0, x => x :: r
  | y :: r, i + 1, x => y :: setAt r i x

end Sys2Proof.Machine
end

