-- ==== Sys2Proof/Syntax.lean ====
section
/-! DEFINITION. The steps of the EZ-7040: one constructor of `Instr` per row of the opcode table.
Bundle moves carry what their 24-bit slot says (R56); the other rows are steps of engines, slices,
the die and the host, and carry which part moves and what the outside gives. -/

namespace Sys2Proof

/-- The two integer units (R92, R93). -/
inductive IntUnit where | ia | ib
deriving DecidableEq, Repr

/-- Width selector Wd (R91). -/
inductive Wd where | w64 | w32s | w32z
deriving DecidableEq, Repr

/-- Signedness and width selector Sw (R91). -/
inductive Sw where | sg64 | sg32 | un64 | un32
deriving DecidableEq, Repr

/-- Condition selector Cc (R91). -/
inductive Cc where | eq | ne | lt | ge | ltu | geu | le | gt | leu | gtu
deriving DecidableEq, Repr

/-- Float lane types, Vt 0 to 2 (R91). -/
inductive Ft where | f32 | bf16 | f16
deriving DecidableEq, Repr

/-- Lane types Vt (R91): a float type, or signed or not 32-bit integers. -/
inductive Vt where | fl (t : Ft) | int | uint
deriving DecidableEq, Repr

/-- Lane types of vabs and vneg: Vt 0 to 2 and 8 (R97). -/
inductive Va where | fl (t : Ft) | int
deriving DecidableEq, Repr

/-- Conversion selector Cv (R91). -/
inductive Cv where
  | f2bf | f2h | bf2f | h2f | bf2h | h2bf | f2i | f2it | f2ui | f2uit | i2f | ui2f
deriving DecidableEq, Repr

/-- Access sizes, Sz 0 to 3 (R91). -/
inductive Sz where | b | h | w | d
deriving DecidableEq, Repr

/-- Load sizes, Sz 0 to 6 (R91): a size, or a narrow size sign-extended. -/
inductive LdSz where | zx (z : Sz) | bs | hs | ws
deriving DecidableEq, Repr

/-- Scopes Sc (R313). -/
inductive Sc where | core | clu | die | sys
deriving DecidableEq, Repr

/-- Fence kinds Fk (R91). -/
inductive Fk where | full | acq | rel
deriving DecidableEq, Repr

/-- Slice atomics Ao (R272). -/
inductive Ao where | aadd | aand | aor | axor | amin | amax | axch | acas
deriving DecidableEq, Repr

/-- Fields HINFO reads (R161). -/
inductive HField where | base | size | perm | valid
deriving DecidableEq, Repr

/-- Predicate logic of vpl (R139). -/
inductive Pl where | and | or | xor | andn | not
deriving DecidableEq, Repr

/-- Forms of a branch target (R94). -/
inductive TForm where | abs | seg
deriving DecidableEq, Repr

/-- Promotion interval P of mmac: 2^FSEL k-steps (R193). -/
inductive Pw where | p1 | p2 | p4 | p8 | p16
deriving DecidableEq, Repr

/-- What sg.stat reads (R208). -/
inductive SgField where | state | syms | rows
deriving DecidableEq, Repr

/-- What qx.ringst reads (R354). -/
inductive RingField where | prod | cons | free
deriving DecidableEq, Repr

/-- Directions of the Hedgerow links (R280). -/
inductive Dir where | n | e | s | w
deriving DecidableEq, Repr

/-- Clock domains of CLKDIV (R253). -/
inductive Dom where | ctl | vec | mat | cpy
deriving DecidableEq, Repr

/-- Counters SNSTAT reads (R347). -/
inductive SnField where | nodes | free | coll | evict
deriving DecidableEq, Repr

/-- Fields STRD reads (R311). -/
inductive StField where | rung | ontime | period | dloff | fseq | origin
deriving DecidableEq, Repr

/-- Fields CAPR reads (R240). -/
inductive CapField where | cause | faddr | resume | bundle
deriving DecidableEq, Repr

/-- Header-immediate selectors of source space 11 (R58). -/
inductive PoolSel where
  | pool | poolS | lo | hi | loS | hiS | up | b0 | b1 | b2 | b3 | zero | one
deriving DecidableEq, Repr

/-- Sources of a move (R57): a register name, a latch b0 to b11, a queue head, a sign-extended
8-bit value, or a value of the header pool. -/
inductive Src where
  | reg (n : RegName)
  | latch (n : Fin 12)
  | head (n : Fin 8)
  | imm (v : BitVec 8)
  | pool (p : PoolSel)
deriving DecidableEq, Repr

/-- The moved source and the K bit of a trigger (R56). -/
structure Mv where
  src : Src
  k : Bool
deriving DecidableEq, Repr

/-- Firmware as a power-up finds it: its image and the vendor's signature (R389). -/
structure Firmware where
  image : List Byte
  signature : List Byte
deriving DecidableEq, Repr

/-- Operand and `.to` ports in the order of the capsule image (R234). -/
inductive Port where
  | iaX | iaTo | ibX | ibTo | brX | brTo | lsH | lsX | lsY | lsMo | lsTo
  | vxX | vxY | vxP | vxF | vxS | vxH | vxTo | mxH | mxX | mxY | mxZ | mxA | mxB | mxCa | mxCb
  | sgH | sgX | sgXb | cpH | cpRec | cpSp | cpZ | gaH | gaIx | gaSp | qxX | qxTo | tkX | tkTo
  | syX | syTo | syH
deriving DecidableEq, Repr

/-- The steps of the part, one constructor per row of the opcode table. -/
inductive Instr where
  /- bundles and moves (R65, R59, R61, R63, R21) -/
  | bundleExecute (b : BitVec 256)
  | moveToRegister (src : Src) (dst : RegName)
  | operandPortWrite (src : Src) (port : Port)
  | nullMove (ssp : BitVec 2) (sval : BitVec 8) (k : Bool) (fsel : BitVec 4)
  | push (src : Src) (w : Fin 8)
  /- integer units (R107) -/
  | add (u : IntUnit) (f : Wd) (m : Mv)
  | sub (u : IntUnit) (f : Wd) (m : Mv)
  | mul (u : IntUnit) (f : Wd) (m : Mv)
  | mulh (u : IntUnit) (f : Sw) (m : Mv)
  | div (u : IntUnit) (f : Sw) (m : Mv)
  | rem (u : IntUnit) (f : Sw) (m : Mv)
  | and (u : IntUnit) (f : Wd) (m : Mv)
  | or (u : IntUnit) (f : Wd) (m : Mv)
  | xor (u : IntUnit) (f : Wd) (m : Mv)
  | andn (u : IntUnit) (f : Wd) (m : Mv)
  | shl (u : IntUnit) (f : Wd) (m : Mv)
  | shr (u : IntUnit) (f : Wd) (m : Mv)
  | sar (u : IntUnit) (f : Wd) (m : Mv)
  | rol (u : IntUnit) (f : Wd) (m : Mv)
  | min (u : IntUnit) (f : Sw) (m : Mv)
  | max (u : IntUnit) (f : Sw) (m : Mv)
  | cmp (u : IntUnit) (f : Cc) (m : Mv)
  | clz (u : IntUnit) (f : Wd) (m : Mv)
  | ctz (u : IntUnit) (f : Wd) (m : Mv)
  | popc (u : IntUnit) (f : Wd) (m : Mv)
  | ext (u : IntUnit) (f : Sw) (m : Mv)
  | bswap (u : IntUnit) (f : Wd) (m : Mv)
  | adds (u : IntUnit) (f : Sw) (m : Mv)
  | subs (u : IntUnit) (f : Sw) (m : Mv)
  | pass (u : IntUnit) (f : Wd) (m : Mv)
  | intResultDelivery (c : CoreId) (u : IntUnit)
  /- branch and loop unit (R111, R114) -/
  | jmp (t : TForm) (m : Mv)
  | bz (t : TForm) (m : Mv)
  | bnz (t : TForm) (m : Mv)
  | call (t : TForm) (m : Mv)
  | loop (m : Mv)
  | lpop (m : Mv)
  | lcnt (m : Mv)
  | lset (m : Mv)
  /- scalar load/store unit (R95) -/
  | ld (z : LdSz) (m : Mv)
  | st (z : Sz) (m : Mv)
  | loadReply (req : Nat)
  | lda (z : Sz) (sc : Sc) (m : Mv)
  | strl (z : Sz) (sc : Sc) (m : Mv)
  | fence (k : Fk) (sc : Sc) (m : Mv)
  | atom (op : Ao) (m : Mv)
  | clrd (m : Mv)
  | cms (m : Mv)
  | sliceOpPerform (req : Nat)
  | lock (m : Mv)
  | unlock (m : Mv)
  | trn (m : Mv)
  | pf (l2 : Bool) (m : Mv)
  | wb (m : Mv)
  | inv (m : Mv)
  | hinfo (f : HField) (m : Mv)
  /- vector unit (R97) -/
  | vadd (t : Vt) (m : Mv)
  | vsub (t : Vt) (m : Mv)
  | vmul (t : Vt) (m : Mv)
  | vfma (t : Ft) (m : Mv)
  | vfms (t : Ft) (m : Mv)
  | vfnma (t : Ft) (m : Mv)
  | vmin (t : Vt) (m : Mv)
  | vmax (t : Vt) (m : Mv)
  | vabs (t : Va) (m : Mv)
  | vneg (t : Va) (m : Mv)
  | vrcp (m : Mv)
  | vrsqrt (m : Mv)
  | vexp2 (m : Mv)
  | vlog2 (m : Mv)
  | vsqrt (m : Mv)
  | vcmpeq (t : Vt) (m : Mv)
  | vcmplt (t : Vt) (m : Mv)
  | vcmple (t : Vt) (m : Mv)
  | vcmpun (t : Ft) (m : Mv)
  | vsel (w16 : Bool) (m : Mv)
  | vand (m : Mv)
  | vor (m : Mv)
  | vxor (m : Mv)
  | vshl (m : Mv)
  | vshr (arith : Bool) (m : Mv)
  | vcvt (c : Cv) (m : Mv)
  | vnarrow (ks : Bool) (m : Mv)
  | vwiden (ks : Bool) (m : Mv)
  | vrsum (t : Vt) (m : Mv)
  | vrmax (t : Vt) (m : Mv)
  | vrmin (t : Vt) (m : Mv)
  | vbcast (w16 : Bool) (m : Mv)
  | vperm (m : Mv)
  | vext (sx : Bool) (m : Mv)
  | vins (m : Mv)
  | vrot (m : Mv)
  | vld (m : Mv)
  | vst (m : Mv)
  | vgth (mem : Bool) (m : Mv)
  | vsct (mem : Bool) (m : Mv)
  | vpl (op : Pl) (m : Mv)
  | vectorResultDelivery (c : CoreId)
  | gatherLaneReply (req : Nat)
  /- matrix engine (R98) -/
  | mld (resume : Bool) (m : Mv)
  | mst (m : Mv)
  | transferRetire (c : CoreId)
  | transferStop (c : CoreId)
  | mmac (p : Pw) (m : Mv)
  | mzero (m : Mv)
  | mhad (m : Mv)
  | arrayRetire (c : CoreId)
  | mdrain (q1 : Bool) (m : Mv)
  | drainRowPush (c : CoreId)
  | drainRetire (c : CoreId)
  | mcfg (m : Mv)
  | mldc (m : Mv)
  | mldcLand (c : CoreId)
  | mwait (m : Mv)
  /- Sedge rule engine (R99) -/
  | sgLim (m : Mv)
  | sgScl (m : Mv)
  | sgPass (m : Mv)
  | sgStat (f : SgField) (m : Mv)
  | sgWait (m : Mv)
  | sedgeLineArrive (c : CoreId)
  | sedgeIssueCycle (c : CoreId)
  | sedgeRowPush (c : CoreId)
  | sedgePassEnd (c : CoreId)
  | sedgePassFail (c : CoreId)
  /- copy and gather engines (R100) -/
  | cpGo (out : Bool) (m : Mv)
  | cpFence (m : Mv)
  | cpStat (wait : Bool) (m : Mv)
  | cpUiv (m : Mv)
  | copyLineReply (c : CoreId)
  | copyComplete (c : CoreId)
  | gaGth (m : Mv)
  | gaSct (m : Mv)
  | gaStat (wait : Bool) (m : Mv)
  | gaMode (m : Mv)
  | gatherOpComplete (c : CoreId)
  | uiTake (c : CoreId)
  | uiret (m : Mv)
  /- queues, pipes, rings and the Hedgerow (R101) -/
  | qlvl (free : Bool) (m : Mv)
  | qwait (room : Bool) (m : Mv)
  | pseq (m : Mv)
  | pipeEntryArrive (k : ClusterId) (pipe : Fin 16)
  | ringacq (m : Mv)
  | ringrel (m : Mv)
  | ringst (f : RingField) (m : Mv)
  | hbar (m : Mv)
  | phaseStart (k : ClusterId)
  | xmit (d : Dir) (m : Mv)
  | xsel (d : Dir) (m : Mv)
  | linkWordArrive (k : ClusterId) (d : Dir)
  | hend (m : Mv)
  | phaseEnd (k : ClusterId)
  /- strand, join, Bracken and window unit (R102) -/
  | post (m : Mv)
  | yield (m : Mv)
  | wait (m : Mv)
  | endStrand (m : Mv)
  | arga (m : Mv)
  | jinit (m : Mv)
  | jdec (m : Mv)
  | hashu (m : Mv)
  | snap (m : Mv)
  | snfind (m : Mv)
  | snpin (m : Mv)
  | snrel (m : Mv)
  | snstat (f : SnField) (m : Mv)
  | kvadv (m : Mv)
  | kvpin (m : Mv)
  | strd (f : StField) (m : Mv)
  | tkResultDelivery (c : CoreId)
  /- system unit and traps (R103) -/
  | capst (m : Mv)
  | tret (m : Mv)
  | trap (m : Mv)
  | brk (m : Mv)
  | clkdiv (d : Dom) (m : Mv)
  | ecnt (m : Mv)
  | ncsr (m : Mv)
  | ncsw (clr : Bool) (m : Mv)
  | sysr (m : Mv)
  | sysw (m : Mv)
  | revoke (c : CoreId)
  | ecsetPreset (c : CoreId) (x : CtxId) (v : W64)
  | capr (f : CapField) (m : Mv)
  | trapEntry (c : CoreId)
  | strandEndFault (c : CoreId)
  | dblfault (c : CoreId)
  | wdfreeze (c : CoreId)
  | pipewd (c : CoreId)
  | segmentExpanded (c : CoreId)
  | pickup (c : CoreId)
  | gangRelease (k : ClusterId)
  | sliceExpire (c : CoreId)
  | contextSwitch (c : CoreId)
  | sliceovr (c : CoreId)
  /- launches, streams and records (R292) -/
  | launchNop (x : CtxId)
  | launch (x : CtxId)
  | launchGang (x : CtxId)
  | streamOpen (x : CtxId)
  | streamClose (x : CtxId)
  | launchUnpark (id : Nat)
  | launchStartDue (id : Nat)
  | recordRelease (k : ClusterId)
  | commandDoorbell (x : CtxId) (tail : BitVec 32)
  | hostRegisterWrite (off : BitVec 24) (v : W64)
  | gtset (v : W64)
  | bkenEnable (t : BitVec 6)
  | bkenDisable (t : BitVec 6)
  | snapshotExport
  | snapshotImport
  | snapshotUnpin
  | attest
  | energyReading
  | fetchReading
  | rrel (strm : StrmId) (v : W64)
  | replay (v : W64)
  | totalClr (acct : Fin 17)
  | decodeJob (d : Fin 4) (x : CtxId)
  | decodeJobDone (d : Fin 4) (codec : Nat) (stream : List Byte) (bad : Bool)
  | encoderEntryArrive (e : Fin 8)
  | encoderTakeEntry (e : Fin 8)
  | frameCoded (e : Fin 8)
  | hostWriteArrive (a : BitVec 52) (data : List Byte)
  /- cluster, power, time and module (R286, R374, R386) -/
  | retentionEntry (k : ClusterId)
  | retentionWake (k : ClusterId) (lost : Bool)
  | sliceTagError (sl : BitVec 9)
  | ptmExchange (offset : Int) (ok : Bool)
  | ptmHoldover
  | pressureRaise (k : ClusterId) (l : BitVec 2)
  | pressureLower (k : ClusterId)
  | ageingCheck (k : ClusterId) (v : BitVec 4)
  | harvest
  | thermwarn (k : ClusterId) (temp : BitVec 8)
  | emergencySave
  | railCut
  | thermalTripClear (temp : BitVec 8)
  | powerUp (firmware : Firmware) (aonValid : Bool)
  | sliceAccessServe (req : Nat)
  | hostSnoop (a : BitVec 52) (inval : Bool)
  | emptyLaunchComplete (id : Nat)
deriving DecidableEq, Repr

end Sys2Proof
end

