-- ==== Sys2Proof/Machine/Float.lean ====
section
/-! DEFINITION. IEEE formats, rounding and the exact functions of the vector unit
(R28 to R30, R46, R134, R136, R143). Finite values are exact: (-1)^s * m * 2^e. -/

namespace Sys2Proof.Machine

/-- Rounding modes (R30). -/
inductive Rm where | rne | rtz | rdn | rup
deriving DecidableEq, Repr

/-- The mode of a two-bit RM field (R30). -/
def Rm.dec (n : Nat) : Rm :=
  match n % 4 with
  | 0 => .rne
  | 1 => .rtz
  | 2 => .rdn
  | _ => .rup

/-- Flag bits of NCS[7:0] (R31). -/
abbrev Flags := BitVec 8
def Flags.nx : Flags := 0x01
def Flags.uf : Flags := 0x02
def Flags.of : Flags := 0x04
def Flags.dz : Flags := 0x08
def Flags.nv : Flags := 0x10
def Flags.xs : Flags := 0x20
def Flags.sn : Flags := 0x40
def Flags.ws : Flags := 0x80

/-- An IEEE binary format: exponent and fraction widths (R28). -/
structure FFmt where
  ew : Nat
  mw : Nat
deriving DecidableEq, Repr

def fp32 : FFmt := ⟨8, 23⟩
def bf16 : FFmt := ⟨8, 7⟩
def fp16 : FFmt := ⟨5, 10⟩

/-- The format of a float lane type (R91). -/
def ftFmt : Ft → FFmt
  | .f32 => fp32
  | .bf16 => Machine.bf16
  | .f16 => fp16

def FFmt.bias (f : FFmt) : Nat := 2 ^ (f.ew - 1) - 1
def FFmt.width (f : FFmt) : Nat := 1 + f.ew + f.mw
def FFmt.signBit (f : FFmt) : Nat := 2 ^ (f.ew + f.mw)
/-- Infinity of positive sign. -/
def FFmt.infCode (f : FFmt) : Nat := (2 ^ f.ew - 1) * 2 ^ f.mw
/-- The canonical NaN (R28). -/
def FFmt.nanCode (f : FFmt) : Nat := f.infCode + 2 ^ (f.mw - 1)
/-- The largest finite code (R28). -/
def FFmt.maxCode (f : FFmt) : Nat := f.infCode - 1

/-- A value: NaN, an infinity, or (-1)^s * m * 2^e. -/
inductive FVal where
  | nan
  | inf (s : Bool)
  | fin (s : Bool) (m : Nat) (e : Int)
deriving DecidableEq, Repr

/-- The value of a code (R28). -/
def FFmt.value (f : FFmt) (code : Nat) : FVal :=
  let s := code.testBit (f.ew + f.mw)
  let ex := (code >>> f.mw) % 2 ^ f.ew
  let fr := code % 2 ^ f.mw
  if ex = 2 ^ f.ew - 1 then (if fr = 0 then .inf s else .nan)
  else if ex = 0 then .fin s fr (1 - (f.bias : Int) - f.mw)
  else .fin s (2 ^ f.mw + fr) ((ex : Int) - f.bias - f.mw)

def signed (s : Bool) (f : FFmt) (code : Nat) : Nat := if s then f.signBit + code else code

/-- Whether rounding n + (fraction) moves the magnitude up: half tells how the discarded part compares
with half a unit. -/
def roundsUp (rm : Rm) (s : Bool) (n : Nat) (exact : Bool) (half : Ordering) : Bool :=
  if exact then false
  else match rm with
    | .rne => match half with
      | .lt => false
      | .gt => true
      | .eq => n % 2 == 1
    | .rtz => false
    | .rdn => s
    | .rup => !s

/-- How the part of m below bit k, plus an infinitesimal when `more`, compares with half of 2^k. -/
def halfCompare (m k : Nat) (more : Bool) : Ordering :=
  if k = 0 then .lt
  else
    let r := m % 2 ^ k
    let h := 2 ^ (k - 1)
    if r < h then .lt else if r > h then .gt else if more then .gt else .eq

/-- The positive value (m [+ infinitesimal when `more`]) * 2^e rounded once to a format, with the
overflow, underflow and inexact flags of R30: tininess before rounding. -/
def roundTo (f : FFmt) (rm : Rm) (s : Bool) (m0 : Nat) (e0 : Int) (more : Bool) : Nat × Flags :=
  if m0 = 0 && !more then (signed s f 0, 0)
  else
    -- enough low bits that an infinitesimal lies below every bit kept
    let m := if more then m0 * 2 ^ 64 else m0
    let e := if more then e0 - 64 else e0
    let emin : Int := 1 - (f.bias : Int)
    let top : Int := (bitLen m : Int) - 1 + e
    let q : Int := (if top < emin then emin else top) - f.mw
    let k := (q - e).toNat
    let n := if e ≤ q then m >>> k else m <<< (e - q).toNat
    let exact := (if e ≤ q then m % 2 ^ k == 0 else true) && !more
    let up := roundsUp rm s n exact (if e ≤ q then halfCompare m k more else .lt)
    let n1 := if up then n + 1 else n
    let big := n1 ≥ 2 ^ (f.mw + 1)
    let n2 := if big then n1 / 2 else n1
    let q2 : Int := if big then q + 1 else q
    let ex : Int := q2 + f.mw + f.bias
    let nxf : Flags := if exact then 0 else Flags.nx
    if n2 ≥ 2 ^ f.mw && ex ≥ ((2 ^ f.ew - 1 : Nat) : Int) then
      let away := match rm with
        | .rne => true
        | .rtz => false
        | .rdn => s
        | .rup => !s
      (signed s f (if away then f.infCode else f.maxCode), Flags.of ||| Flags.nx)
    else
      let uff : Flags := if !exact && decide (top < emin) then Flags.uf else 0
      let code := if n2 < 2 ^ f.mw then n2 else ex.toNat * 2 ^ f.mw + (n2 - 2 ^ f.mw)
      (signed s f code, nxf ||| uff)

/-- Sign of an exact zero sum of unlike zeros or of cancelling terms (R134). -/
def zeroSign (rm : Rm) : Bool := rm == .rdn

/-- The exact sum of two finite values. -/
def sumExact (s1 : Bool) (m1 : Nat) (e1 : Int) (s2 : Bool) (m2 : Nat) (e2 : Int) : Int × Int :=
  let e := if e1 < e2 then e1 else e2
  let a : Int := (m1 * 2 ^ (e1 - e).toNat : Nat)
  let b : Int := (m2 * 2 ^ (e2 - e).toNat : Nat)
  ((if s1 then -a else a) + (if s2 then -b else b), e)

/-- RM(x + y) (R134). -/
def fAdd (f : FFmt) (rm : Rm) (x y : FVal) : Nat × Flags :=
  match x, y with
  | .nan, _ => (f.nanCode, 0)
  | _, .nan => (f.nanCode, 0)
  | .inf a, .inf b => if a = b then (signed a f f.infCode, 0) else (f.nanCode, Flags.nv)
  | .inf a, .fin .. => (signed a f f.infCode, 0)
  | .fin .., .inf b => (signed b f f.infCode, 0)
  | .fin s1 m1 e1, .fin s2 m2 e2 =>
    let r := sumExact s1 m1 e1 s2 m2 e2
    if r.1 = 0 then
      (signed (if m1 = 0 && m2 = 0 && s1 == s2 then s1 else zeroSign rm) f 0, 0)
    else roundTo f rm (decide (r.1 < 0)) r.1.natAbs r.2 false

def FVal.neg : FVal → FVal
  | .nan => .nan
  | .inf s => .inf (!s)
  | .fin s m e => .fin (!s) m e

/-- RM(x * y) (R134). -/
def fMul (f : FFmt) (rm : Rm) (x y : FVal) : Nat × Flags :=
  match x, y with
  | .nan, _ => (f.nanCode, 0)
  | _, .nan => (f.nanCode, 0)
  | .inf a, .inf b => (signed (a != b) f f.infCode, 0)
  | .inf a, .fin b m _ => if m = 0 then (f.nanCode, Flags.nv) else (signed (a != b) f f.infCode, 0)
  | .fin a m _, .inf b => if m = 0 then (f.nanCode, Flags.nv) else (signed (a != b) f f.infCode, 0)
  | .fin a m e, .fin b n g => roundTo f rm (a != b) (m * n) (e + g) false

/-- fma(x, y, z): x * y + z rounded once (R7, R134). -/
def fFma (f : FFmt) (rm : Rm) (x y z : FVal) : Nat × Flags :=
  match x, y, z with
  | .nan, _, _ => (f.nanCode, 0)
  | _, .nan, _ => (f.nanCode, 0)
  | _, _, .nan => (f.nanCode, 0)
  | x, y, z =>
    let prod : Option FVal := match x, y with
      | .inf a, .inf b => some (.inf (a != b))
      | .inf a, .fin b m _ => if m = 0 then none else some (.inf (a != b))
      | .fin a m _, .inf b => if m = 0 then none else some (.inf (a != b))
      | .fin a m e, .fin b n g => some (.fin (a != b) (m * n) (e + g))
      | _, _ => none
    match prod with
    | none => (f.nanCode, Flags.nv)
    | some p => fAdd f rm p z

/-- Order of two values that are not NaN: -0 below +0 when `zeros` (R134), else equal (R137). -/
def FVal.lt (zeros : Bool) : FVal → FVal → Bool
  | .nan, _ => false
  | _, .nan => false
  | .inf a, .inf b => a && !b
  | .inf a, .fin .. => a
  | .fin .., .inf b => !b
  | .fin a m e, .fin b n g =>
    let r := sumExact a m e (!b) n g
    if r.1 = 0 then zeros && m == 0 && n == 0 && a && !b else decide (r.1 < 0)

def FVal.isNan : FVal → Bool
  | .nan => true
  | _ => false

/-- x = y for a quiet compare (R137). -/
def FVal.eq (x y : FVal) : Bool :=
  !x.isNan && !y.isNan && !FVal.lt false x y && !FVal.lt false y x

/-- vmin and vmax of R134 on codes of one format. -/
def fMinMax (f : FFmt) (wantMax : Bool) (a b : Nat) : Nat :=
  let x := f.value a
  let y := f.value b
  if x.isNan || y.isNan then f.nanCode
  else if FVal.lt true y x then (if wantMax then a else b) else (if wantMax then b else a)

/-- A value rounded to a format: the narrowing conversions of R46. -/
def fRound (f : FFmt) (rm : Rm) (x : FVal) : Nat × Flags :=
  match x with
  | .nan => (f.nanCode, 0)
  | .inf s => (signed s f f.infCode, 0)
  | .fin s m e => roundTo f rm s m e false

/-- The non-negative value m * 2^e rounded to an integer (rint of R44), and whether it was exact. -/
def rint (rm : Rm) (s : Bool) (m : Nat) (e : Int) : Nat × Bool :=
  if 0 ≤ e then (m * 2 ^ e.toNat, true)
  else
    let k := (-e).toNat
    let n := m >>> k
    let exact := m % 2 ^ k == 0
    (if roundsUp rm s n exact (halfCompare m k false) then n + 1 else n, exact)

/-- FP32 to a 32-bit integer (R46). -/
def fToInt (rm : Rm) (isSigned : Bool) (x : FVal) : Nat × Flags :=
  let lo : Int := if isSigned then -(2 ^ 31 : Nat) else 0
  let hi : Int := if isSigned then (2 ^ 31 - 1 : Nat) else (2 ^ 32 - 1 : Nat)
  match x with
  | .nan => (0, Flags.nv)
  | .inf s => (wrap (if s then lo else hi) 32, Flags.nv)
  | .fin s m e =>
    let r := rint rm s m e
    let v : Int := if s then -(r.1 : Int) else r.1
    if v < lo then (wrap lo 32, Flags.nv)
    else if v > hi then (wrap hi 32, Flags.nv)
    else (wrap v 32, if r.2 then 0 else Flags.nx)

/-- A 32-bit integer to FP32 (R46). -/
def intToF (rm : Rm) (isSigned : Bool) (x : Nat) : Nat × Flags :=
  let v : Int := if isSigned then sx x 32 else (x % 2 ^ 32 : Nat)
  roundTo fp32 rm (decide (v < 0)) v.natAbs 0 false

/-! ### Correctly rounded functions (R136) -/

/-- Integer square root by bits, from bit k - 1 down. -/
def isqrtFrom (n : Nat) : Nat → Nat → Nat
  | 0, r => r
  | k + 1, r => let t := r + 2 ^ k; isqrtFrom n k (if t * t ≤ n then t else r)

/-- The integer square root. -/
def isqrt (n : Nat) : Nat := isqrtFrom n (bitLen n / 2 + 1) 0

/-- 1 / x rounded once. -/
def fRcp (rm : Rm) (x : FVal) : Nat × Flags :=
  match x with
  | .nan => (fp32.nanCode, 0)
  | .inf s => (signed s fp32 0, 0)
  | .fin s m e =>
    if m = 0 then (signed s fp32 fp32.infCode, Flags.dz)
    else roundTo fp32 rm s (2 ^ 128 / m) (-128 - e) (2 ^ 128 % m != 0)

/-- The square root rounded once. -/
def fSqrt (rm : Rm) (x : FVal) : Nat × Flags :=
  match x with
  | .nan => (fp32.nanCode, 0)
  | .inf s => if s then (fp32.nanCode, Flags.nv) else (fp32.infCode, 0)
  | .fin s m e =>
    if m = 0 then (signed s fp32 0, 0)
    else if s then (fp32.nanCode, Flags.nv)
    else
      let odd := e % 2 != 0
      let a := m * 2 ^ (if odd then 129 else 128)
      let r := isqrt a
      roundTo fp32 rm false r ((e - (if odd then 1 else 0)) / 2 - 64) (r * r != a)

/-- The reciprocal square root rounded once. -/
def fRsqrt (rm : Rm) (x : FVal) : Nat × Flags :=
  match x with
  | .nan => (fp32.nanCode, 0)
  | .inf s => if s then (fp32.nanCode, Flags.nv) else (0, 0)
  | .fin s m e =>
    if m = 0 then (signed s fp32 fp32.infCode, Flags.dz)
    else if s then (fp32.nanCode, Flags.nv)
    else
      let odd := e % 2 != 0
      let a := if odd then 2 * m else m            -- x = a * 2^(2h)
      let h := (e - (if odd then 1 else 0)) / 2
      let r := isqrt (2 ^ 256 / a)
      roundTo fp32 rm false r (-128 - h) (r * r * a != 2 ^ 256)

/-- Fixed point of the exponential and the logarithm: 256 fraction bits. -/
def fixOne : Nat := 2 ^ 256

/-- The product of 2^(2^-i) over the set bits of the fraction, most significant first: root is
2^(2^-i) in fixed point, `fr` the fraction scaled by 2^n. -/
def exp2Frac : Nat → Nat → Nat → Nat → Nat
  | 0, _, _, acc => acc
  | n + 1, fr, root, acc =>
    let root' := isqrt (root * fixOne)
    exp2Frac n (fr % 2 ^ n) root' (if fr.testBit n then acc * root' / fixOne else acc)

/-- 2^x rounded once; an x that is no integer has an irrational power (log 10). -/
def fExp2 (rm : Rm) (x : FVal) : Nat × Flags :=
  match x with
  | .nan => (fp32.nanCode, 0)
  | .inf s => if s then (0, 0) else (fp32.infCode, 0)
  | .fin s m e =>
    if m = 0 then roundTo fp32 rm false 1 0 false
    else if (bitLen m : Int) + e > 9 then
      roundTo fp32 rm false 1 (if s then -1000 else 1000) s
    else
      let k := (-e).toNat                           -- fraction bits of x
      let v : Int := if s then -(m * 2 ^ e.toNat : Nat) else (m * 2 ^ e.toNat : Nat)
      let i := v / ((2 ^ k : Nat) : Int)
      let fr := (v % ((2 ^ k : Nat) : Int)).toNat
      if fr = 0 then roundTo fp32 rm false 1 i false
      else roundTo fp32 rm false (exp2Frac k fr (2 * fixOne) fixOne) (i - 256) true

/-- n binary digits of log2(y / fixOne) for y in [fixOne, 2 fixOne). -/
def log2Digits : Nat → Nat → Nat → Nat
  | 0, _, acc => acc
  | n + 1, y, acc =>
    let y2 := y * y / fixOne
    if y2 ≥ 2 * fixOne then log2Digits n (y2 / 2) (2 * acc + 1) else log2Digits n y2 (2 * acc)

/-- log2(x) rounded once; irrational unless x is a power of two (log 10). -/
def fLog2 (rm : Rm) (x : FVal) : Nat × Flags :=
  match x with
  | .nan => (fp32.nanCode, 0)
  | .inf s => if s then (fp32.nanCode, Flags.nv) else (fp32.infCode, 0)
  | .fin s m e =>
    if m = 0 then (signed true fp32 fp32.infCode, Flags.dz)
    else if s then (fp32.nanCode, Flags.nv)
    else
      let top : Int := (bitLen m : Int) - 1
      let ex := top + e
      if m = 2 ^ top.toNat then roundTo fp32 rm (decide (ex < 0)) ex.natAbs 0 false
      else
        let l := log2Digits 128 (m * fixOne / 2 ^ top.toNat) 0
        let v : Int := ex * ((2 ^ 128 : Nat) : Int) + l          -- the value lies in (v, v + 1) / 2^128
        if 0 ≤ v then roundTo fp32 rm false v.toNat (-128) true
        else roundTo fp32 rm true (v.natAbs - 1) (-128) true

end Sys2Proof.Machine
end

