-- ==== Sys2Proof/Machine/Narrow.lean ====
section
/-! DEFINITION. Format registers, narrow codes, block scales and their conversions (R33 to R47). -/

namespace Sys2Proof.Machine

/-- A format register (R33). -/
abbrev Fmt := BitVec 32

namespace Fmt
/-- BIAS, signed (R33). -/
def bias (F : Fmt) : Int := sx (bits F.toNat 31 24) 8
def sgn (F : Fmt) : Bool := F.getLsbD 23
def ew (F : Fmt) : Nat := bits F.toNat 22 20
def mw (F : Fmt) : Nat := bits F.toNat 19 16
def spv (F : Fmt) : Nat := bits F.toNat 15 14
def sub (F : Fmt) : Bool := F.getLsbD 13
def sat (F : Fmt) : Bool := F.getLsbD 12
def rm (F : Fmt) : Rm := Rm.dec (bits F.toNat 11 10)
def uth (F : Fmt) : Nat := bits F.toNat 9 7
def sbud (F : Fmt) : Nat := bits F.toNat 6 3
/-- Total width W. -/
def width (F : Fmt) : Nat := (if F.sgn then 1 else 0) + F.ew + F.mw
/-- Elements of width 2 to 4 are packed as nibbles (R38). -/
def isNibble (F : Fmt) : Bool := F.width ≤ 4

/-- The consistency conditions of R37. -/
def consistent (F : Fmt) : Bool :=
  decide (2 ≤ F.width) && decide (F.width ≤ 8) && bits F.toNat 2 0 == 0 && F.spv != 3
  && (F.ew == 0 || (F.sgn && decide ((2 ^ F.ew : Nat) - 128 ≤ F.bias)))
  && (F.spv != 2 || (decide (2 ≤ F.ew) && decide (1 ≤ F.mw)))
  && (F.ew != 0 || (F.spv == 0 && !F.sub && F.sat && decide (-32 ≤ F.bias) && decide (F.bias ≤ 32)))

/-- The largest magnitude code that is not special (R35). -/
def maxMag (F : Fmt) : Nat :=
  match F.spv with
  | 1 => 2 ^ (F.ew + F.mw) - 2
  | 2 => 2 ^ (F.ew + F.mw) - 2 ^ F.mw - 1
  | _ => 2 ^ (F.ew + F.mw) - 1

/-- Value of a magnitude code of a float format as m * 2^e (R34), subnormals included. -/
def magValue (F : Fmt) (code : Nat) : Nat × Int :=
  let ex := code / 2 ^ F.mw
  let m := code % 2 ^ F.mw
  if ex = 0 then (if F.sub then m else 0, 1 - F.bias - F.mw)
  else (2 ^ F.mw + m, (ex : Int) - F.bias - F.mw)

/-- The value of a code (R34 to R36); bits above W are ignored (R38). -/
def value (F : Fmt) (c : Nat) : FVal :=
  if F.ew = 0 then
    let v : Int := if F.sgn then sx c F.width else (zx c F.width : Nat)
    .fin (decide (v < 0)) v.natAbs (-F.bias)
  else
    let s := c.testBit (F.ew + F.mw)
    let mag := c % 2 ^ (F.ew + F.mw)
    let top := mag / 2 ^ F.mw == 2 ^ F.ew - 1
    let m := mag % 2 ^ F.mw
    if F.spv = 1 && mag == 2 ^ (F.ew + F.mw) - 1 then .nan
    else if F.spv = 2 && top then (if m = 0 then .inf s else .nan)
    else let v := F.magValue mag; .fin s v.1 v.2

/-- The sign placed above a magnitude code. -/
def withSign (F : Fmt) (s : Bool) (mag : Nat) : Nat := (if s then 2 ^ (F.ew + F.mw) else 0) + mag

/-- The encoding of a NaN of sign s (R45, NaN row). -/
def nanCode (F : Fmt) (s : Bool) : Nat × Flags :=
  if F.ew = 0 then (0, Flags.nv)
  else match F.spv with
    | 2 => (F.withSign s (2 ^ (F.ew + F.mw) - 2 ^ F.mw + 2 ^ (F.mw - 1)), 0)
    | 1 => (F.withSign s (2 ^ (F.ew + F.mw) - 1), 0)
    | _ => (0, Flags.nv)

/-- Bounds of an integer format (R44). -/
def intLo (F : Fmt) : Int := if F.sgn then -(2 ^ (F.width - 1) : Nat) else 0
def intHi (F : Fmt) : Int := if F.sgn then (2 ^ (F.width - 1) - 1 : Nat) else (2 ^ F.width - 1 : Nat)

/-- The encoding of an infinity of sign s (R45). -/
def infCode (F : Fmt) (s : Bool) : Nat × Flags :=
  if F.ew = 0 then (wrap (if s then F.intLo else F.intHi) F.width, Flags.xs)
  else if F.sat then (F.withSign s F.maxMag, Flags.xs)
  else match F.spv with
    | 2 => (F.withSign s (2 ^ (F.ew + F.mw) - 2 ^ F.mw), 0)
    | 1 => (F.withSign s (2 ^ (F.ew + F.mw) - 1), Flags.xs)
    | _ => (F.withSign s F.maxMag, Flags.xs)

end Fmt

/-- Sign of a value; a NaN code carries its own (R45). -/
def FVal.sign : FVal → Bool
  | .nan => false
  | .inf s => s
  | .fin s _ _ => s

/-- Outcome of one encode: the code, its flags, and whether R44's clamp or overflow acted. -/
structure Enc where
  code : Nat
  flags : Flags
  ovf : Bool
deriving DecidableEq, Repr

/-- Whether m * 2^e > n * 2^g. -/
def dyGt (m : Nat) (e : Int) (n : Nat) (g : Int) : Bool :=
  decide ((sumExact false m e true n g).1 > 0)

/-- Encode of a finite value (-1)^s m 2^e0 under scale code k not 255 (R44). -/
def encodeFin (F : Fmt) (s : Bool) (m : Nat) (e0 : Int) (k : Nat) : Enc :=
  let e1 : Int := e0 + 127 - k
  if F.ew = 0 then
    let r := rint F.rm s m (e1 + F.bias)
    let n : Int := if s then -(r.1 : Int) else r.1
    let nx : Flags := if r.2 then 0 else Flags.nx
    let ovf := decide (n < F.intLo) || decide (n > F.intHi)
    let n1 := sat n F.intLo F.intHi
    ⟨wrap n1 F.width, nx ||| (if ovf then Flags.of else 0), ovf⟩
  else
    let emin : Int := 1 - F.bias
    let top : Int := (bitLen m : Int) - 1 + e1
    if m != 0 && decide (top < emin) && !F.sub then ⟨F.withSign s 0, Flags.uf ||| Flags.nx, false⟩
    else
      let e : Int := if m = 0 then emin else if top < emin then emin else top
      let r := rint F.rm s m (e1 - (e - F.mw))
      let n := r.1
      let nx : Flags := if r.2 then 0 else Flags.nx
      let uf : Flags := if !r.2 && decide (top < emin) then Flags.uf else 0
      let mx := F.magValue F.maxMag
      let maxC := F.withSign s F.maxMag
      if dyGt n (e - F.mw) mx.1 mx.2 then
        let away := F.rm == .rne || (F.rm == .rup && !s) || (F.rm == .rdn && s)
        let code :=
          if F.sat || F.spv == 0 || !away then maxC
          else if F.spv == 2 then F.withSign s (2 ^ (F.ew + F.mw) - 2 ^ F.mw)
          else F.withSign s (2 ^ (F.ew + F.mw) - 1)
        ⟨code, nx ||| uf ||| Flags.of ||| Flags.nx, true⟩
      else
        let mag :=
          if n < 2 ^ F.mw then n
          else if n = 2 ^ (F.mw + 1) then (e + 1 + F.bias).toNat * 2 ^ F.mw
          else (e + F.bias).toNat * 2 ^ F.mw + (n - 2 ^ F.mw)
        ⟨F.withSign s mag, nx ||| uf, false⟩

/-- Encode of R44 and R45: x of sign s (the input's own, also for a NaN) under scale code k. -/
def encode (F : Fmt) (s : Bool) (x : FVal) (k : Nat) : Enc :=
  if k = 255 then let r := F.nanCode s; ⟨r.1, r.2 ||| Flags.sn, false⟩
  else match x with
    | .nan => let r := F.nanCode s; ⟨r.1, r.2, false⟩
    | .inf t => let r := F.infCode t; ⟨r.1, r.2, false⟩
    | .fin t m e => encodeFin F t m e k

/-- Decode of R43 to FP32 bits under scale code k, rounding under NCS.RM. -/
def decodeNarrow (F : Fmt) (rm : Rm) (c k : Nat) : Nat × Flags :=
  if k = 255 then (fp32.nanCode, Flags.sn)
  else match F.value c with
    | .nan => (fp32.nanCode, 0)
    | .inf s => (signed s fp32 fp32.infCode, 0)
    | .fin s m e => roundTo fp32 rm s m (e + k - 127) false

/-- Element i of packed narrow elements held in a value (R38). -/
def narrowAt (F : Fmt) (v i : Nat) : Nat :=
  if F.isNibble then bits v (4 * i + 3) (4 * i) % 2 ^ F.width
  else bits v (8 * i + 7) (8 * i) % 2 ^ F.width

/-- Codes packed by width, container bits above W zero (R38). -/
def packNarrow (F : Fmt) (l : List Nat) : Nat :=
  packNat (if F.isNibble then 4 else 8) (l.map (· % 2 ^ F.width))

end Sys2Proof.Machine
end

