-- ==== Sys2Proof/Machine/State.lean ====
section
/-! DEFINITION. The state of the EZ-7040: cores, clusters, slices, die, always-on domain, and the
events the outside schedules. Plain data. Times are quanta of 1/27 ns: a ref tick is 5 quanta, a
nanosecond of the global timer 27, a control cycle 5 x divisor (R6). -/

namespace Sys2Proof.Machine

/-- Fault causes in code order from 0x01 (R226). -/
inductive Cause where
  | illenc | illopd | align | hstale | lease | qfull | qempty | ruledepth | ruleundef | mmrace
  | dblfault | wdfreeze | sliceovr | priv | clkdiv | loopstk | fmtreg | eccunc | pipewd | argrange
  | trapins | brk | hbound | ringstate | kvstate | launchrange | relocfit
deriving DecidableEq, Repr

/-- A machine stop. -/
inductive Fault where
  /-- Raised by `step` when RAIL_CUT has cut every rail but VAON (R386) and no event is left: the die
  does not run. Safe: the machine stops where the die is off. -/
  | railsCut
deriving DecidableEq, Repr

/-- No meaning. -/
inductive Refusal where
  /-- Raised by an arm of `exec` whose instruction has no meaning yet, by its mnemonic. Safe. -/
  | notModelled (mnemonic : String)
deriving DecidableEq, Repr

/-- A bundle's place: segment address and bundle index (R94). -/
structure Target where
  seg : BitVec 56
  bix : BitVec 7
deriving DecidableEq, Repr

/-- A continuation record, W0 to W7 (R9). -/
structure Record where
  w0 : W64
  w1 : W64
  w2 : W64
  w3 : W64
  cv0 : W64
  cv1 : W64
  cv2 : W64
  cv3 : W64
deriving DecidableEq, Repr

/-- What one strand has seen of the others: counts of their releases by strand identifier (R315). -/
abbrev Vc := Tbl Nat

/-- A result an operation delivers (R89). -/
inductive ResClass where
  | s     -- 64-bit scalar
  | v     -- 64 bytes
  | p     -- 16-bit predicate
  | p2    -- 32-bit predicate, a pair of p registers
  | h     -- handle
  | latch -- the latch alone
deriving DecidableEq, Repr

/-- The unit an in-flight result belongs to. -/
inductive FUnit where | ia | ib | br | ls | vx | qx | tk | sy
deriving DecidableEq, Repr

/-- A result in flight: value, destination name with the rotating bases in force at its trigger, flags
it sets, the time it is delivered (none: at a reply), and whether its reply was faulty (R23, R165). -/
structure Flight where
  id : Nat
  unit : FUnit
  cls : ResClass
  value : V512
  dest : Option RegName
  vrb : Nat
  prb : Nat
  flags : Flags
  due : Option Nat
  lanes : Nat               -- lanes of a memory gather still to reply (R148)
  bad : Option Cause        -- ECCUNC or MMRACE of the reply (R166, R327)
  va : W64                  -- its virtual address
  divider : Bool            -- it occupies the unit's divider (R109)
  inUi : Bool               -- triggered inside a user-level interrupt handler (R24, R180)
  acq : Bool                -- an acquire whose result holds later memory accesses (R350, R364)
deriving DecidableEq, Repr

/-- A register poisoned or racy (R166, R327); physical name, and whether a release has reported it. -/
structure BadReg where
  reg : RegName
  cause : Cause
  va : W64
  reported : Bool
deriving DecidableEq, Repr

/-- A loop-stack entry (R113). -/
structure LoopEntry where
  count : BitVec 32
  start : BitVec 7
  endB : BitVec 7
  seg : BitVec 56
deriving DecidableEq, Repr

/-- The register files of a core, physical order (R17). -/
structure RegFile where
  g : Vector W64 64
  o : Vector W64 16
  v : Vector V512 64
  p : Vector (BitVec 16) 16
  h : Vector (BitVec 128) 16
  c : Vector V512 8
  f : Vector (BitVec 32) 16
  z : Vector (BitVec 32) 8
  x : Vector W64 8
deriving DecidableEq, Repr

/-- Latches b0 to b11, scalars zero-extended; none is invalid (R22, R23). -/
abbrev Latches := Vector (Option V512) 12

/-- Unit ports in the order of R234, zero-extended; none is unset (R61, R62). -/
abbrev Ports := Vector (Option V512) 43

/-- An expanded segment in a half of the loop buffer (R71, R75). -/
structure Segment where
  addr : BitVec 56
  next : BitVec 56
  alt : BitVec 56
  apf : Bool
  /-- Fault that its expansion found, reported on the first bundle taken from it (R73). -/
  bad : Option Cause
  bundles : List (BitVec 256)
deriving DecidableEq, Repr

/-- A half of the loop buffer (R75). -/
inductive Half where
  | empty
  | expanding (addr : BitVec 56) (due : Nat)
  | full (sg : Segment)
deriving DecidableEq, Repr

/-- The live capsule (R233 to R235). -/
structure Capsule where
  baddr : Target
  faddr : W64
  cause : Cause
  resume : Nat
  begun : Bool
  sup : Bool
  inui : Bool
  popd : BitVec 8
  kind : BitVec 4
  ctx : CtxId
  ops : Vector (Option V512) 8
  lat : Latches
  ports : Ports
  loops : List LoopEntry
  vrb : Nat
  prb : Nat
deriving DecidableEq, Repr

/-- What a bundle had read when it trapped with its slots begun: its place and resume field, NCS, the counter of
ECNT and the format registers; and where its committed branch leads. No capsule image holds them, and TRET reads
nothing afresh (R68, log 38). -/
structure ReadTime where
  baddr : W64
  resume : Nat
  ncs : BitVec 10
  ec : Nat
  f : Vector (BitVec 32) 16
  branch : Option Target
deriving DecidableEq, Repr

/-- How a strand leaves its core at a bundle end (R124 to R126, R355). -/
inductive Leave where
  | yield
  | wait (j : Nat)
  | dropped                -- enrolled on a counter that a teardown has freed (R297)
  | endStrand
  | ring (strm : StrmId) (slot : Nat)
deriving DecidableEq, Repr

/-- A fault being delivered (R66). -/
structure Raised where
  cause : Cause
  faddr : W64
  slot : Nat
  begun : Bool
  baddr : Target
deriving DecidableEq, Repr

/-- A CLKDIV waiting at bundle end, and what else its bundle end waits for (R253, R159, R280, R285). -/
inductive EndWait where
  | clkdiv (d : Dom) (v : Nat) (byProgram : Bool)
  | revoke (ctx : CtxId) (va : W64) (upTo : Nat)  -- requests numbered below it are waited for
  | hbar
  | hend
  | stores                                       -- those of the core that are older than a TRET (R238)
deriving DecidableEq, Repr

/-- Scratchpad accesses of ls that follow the vector accesses of their bundle (R153): a load, a store, or
the images of a conditional multi-line store. -/
inductive Deferred where
  | load (fid off n : Nat) (sext : Bool)
  | store (off n v : Nat)
  | images (req off : Nat)
deriving DecidableEq, Repr

/-- The bundle in execution (R65). -/
structure BundleState where
  hdr : BitVec 64
  /-- Source values read and not yet committed (R65, R66). -/
  ops : Vector (Option V512) 8
  slot : Nat
  /-- Slots 0 to resume - 1 act as null moves in a re-entered bundle (R68). -/
  resume : Nat
  branch : Option Target
  leave : Option Leave
  /-- The slot of the trigger that makes the strand leave (R168). -/
  leaveSlot : Nat
  uiret : Bool
  tret : Option (Nat)
  /-- The virtual address of the image that TRET reads, and when its bytes have come (R238, R409). -/
  imageVa : W64
  imageAt : Option Nat
  waits : List EndWait
  level : Option Nat
  frozenSince : Option Nat
  committed : Bool
  /-- A bundle re-entered by TRET reports no poisoned register again (R166). -/
  quiet : Bool
  /-- The freeze is measured against the pipe watchdog, and the lowest slot with a hazard (R168). -/
  pipeWait : Bool
  wdSlot : Nat
  /-- The address of the oldest request that the frozen bundle waits for (R168). -/
  wdVa : W64
  /-- The slots from which the waits of the bundle's end come (R168). -/
  waitFrom : List (EndWait × Nat)
  /-- NCS and the counter of ECNT at the read time of the bundle (R32, R48, R257). -/
  ncs0 : BitVec 10
  ec0 : Nat
  deferred : List Deferred
  /-- Scratchpad bytes that the vector stores of the bundle replaced: address, length, old value (R192). -/
  vxOld : List (Nat × Nat × Nat)
  /-- Format registers at the read time of the bundle (R48). -/
  f0 : Vector (BitVec 32) 16
  /-- The bundle is the first of a picked-up record: the record's BIX (R10). -/
  picked : Option (BitVec 8)
  /-- The core waits for an active pass to end, and discards the rows it pushes (R219). -/
  dropping : Bool
  /-- Control has come to the bundle by a transfer, a pick-up or a restore (R75). -/
  arrived : Bool
  /-- POPD and KIND of a capsule whose bundle is re-entered with its slots begun (R238). -/
  reenter : Option (BitVec 8 × BitVec 4)
  /-- What such a bundle had read before its trap: NCS, the counter of ECNT and the format registers (R68). -/
  kept : Option (BitVec 10 × Nat × Vector (BitVec 32) 16)
  /-- Identifiers from this one on are of operations that the bundle itself has started. -/
  since : Option Nat
deriving DecidableEq, Repr

/-- What a core is doing. -/
inductive Phase where
  | idle
  | run                    -- its next bundle is to be decoded, or is frozen
  | ending                 -- every slot has committed; the bundle end is pending
  | faulting (r : Raised)  -- a fault waits for its delivery (R231, R242)
  | leaving (l : Leave)    -- step 1 of R124 is pending
  | switching              -- a context switch is pending its waits (R249)
deriving DecidableEq, Repr

/-- A release that later acquires of the same location may synchronise with (R315). -/
structure SyncMsg where
  core : CoreId
  scope : Sc
  vc : Vc
deriving DecidableEq, Repr

/-- A running strand (R9, R27). -/
structure Running where
  uid : Nat
  rcd : Record
  rflg : BitVec 8
  launch : Option Nat
  gang : Option Nat        -- gang identifier (R278)
  frozen : Nat             -- ref ticks frozen (R304)
  split : Nat              -- extra ref ticks of pressure splits
  vc : Vc
  /-- Release fences whose first write is to come; the number of the strand's last read, and the releases it read
  from when it is a load-acquire or a slice operation (R315). -/
  relFence : List SyncMsg
  lastRead : Nat
  readMsgs : List SyncMsg
deriving DecidableEq, Repr

/-- User-level interrupt state (R180). -/
structure UiState where
  target : Option Target
  pending : Nat
  active : Bool
  ret : Target
  banked : Latches
  bankedPorts : Ports
deriving DecidableEq, Repr

/-- A line of an L1 data cache (R154, R322); the list of lines is in order of use, latest first. -/
structure L1Line where
  line : Nat
  data : BitVec 1024
  dirty : BitVec 128
  epoch : Nat
  poison : Bool
  /-- Bytes that an acquire has discarded while the line was kept for its dirty ones (R316, R323). -/
  stale : BitVec 128
  /-- Per dirty granule of the line: the strand of the latest write and what it had seen (R325). -/
  wr : Tbl (Nat × Vc)
deriving DecidableEq, Repr

/-- One line of a copy (R410): its number, bytes to write to the scratchpad (address, length, value), or a failure;
the time of its reply once it has been requested, and when that was. -/
structure CopyLine where
  line : Nat
  writes : List (Nat × Nat × Nat)
  err : Option Cause
  due : Option Nat
  sent : Nat
deriving DecidableEq, Repr

/-- A copy of the copy engine (R170, R173): the handle it goes through, its lines still to be replied to, and the
copy-domain cycle in which it may make its next request. Of a record that the cache does not hold: how long its read
takes while that is still to be requested, when it has been requested, and its reply (R409). -/
structure Copy where
  out : Bool
  irq : Bool
  page : BitVec 128
  recAddr : W64
  fail : Option Cause
  lines : List CopyLine
  next : Nat
  record : Option Nat
  recSent : Nat
  recUntil : Nat
deriving DecidableEq, Repr

/-- The copy engine (R170 to R177). -/
structure CopyEngine where
  active : Option Copy
  pending : Option Copy
  done : BitVec 32
  err : Option (Cause × W64)
  /-- Record cache, latest used first: context, address, bytes (R175). -/
  cache : List (CtxId × W64 × V512)
deriving DecidableEq, Repr

/-- A lane's request (R148, R179): its address, whether its line was in the L1 at its trigger (R409), when it was made
and when its reply comes. -/
structure GatherLane where
  va : W64
  hit : Bool
  sent : Nat
  due : Option Nat
deriving DecidableEq, Repr

/-- Sixteen lanes of a gather or scatter (R179): scratchpad addresses of the index row and of the data row, none
for an operation handed over by the vector unit; the words to write, and the lanes in their order. -/
structure GatherRow where
  ix : Option Nat
  sp : Option Nat
  load : Bool
  writes : List (Nat × Nat × Nat)
  lanes : List GatherLane
deriving DecidableEq, Repr

/-- An operation of the gather engine (R179, R149): its rows still to be done. -/
structure GatherOp where
  fid : Option Nat
  page : BitVec 128
  rows : List GatherRow
  err : Option (Cause × W64)
deriving DecidableEq, Repr

/-- The gather engine (R179). -/
structure GatherEngine where
  ops : List GatherOp
  done : BitVec 32
  err : Option (Cause × W64)
deriving DecidableEq, Repr

/-- A 32-row tile: rows of up to 32 bytes, or of 32 FP32 cells (R183). -/
abbrev MTile := Vector (BitVec 256) 32
abbrev ATile := Vector (BitVec 1024) 32

/-- The tile configuration: word, format copies and PMAX (R186, R187). -/
structure TileCfg where
  word : BitVec 12
  fa : Fmt
  fb : Fmt
  fd : Fmt
  pmax : Int
deriving DecidableEq, Repr

/-- A tile transfer in flight (R184, R189): the tile's contents after a load, its page and swizzle, the next row to
issue and the time it may issue, the rows issued with the times their replies land and at which they were issued, the
row whose reply is faulty, the row it has stopped at with its cause (R191), and what the rows of a store replaced: row, address, length, bytes. -/
structure Transfer where
  load : Bool
  tile : Nat                -- 0 to 15 m tiles, 16 to 19 accumulators
  data : MTile
  handle : BitVec 128
  off : Nat
  stride : Int
  rb : Nat                  -- bytes of a row
  z : BitVec 32
  next : Nat
  ready : Nat
  rowTime : Nat
  out : List (Nat × Nat × Nat)
  bad : Option (Nat × Cause)
  stop : Option (Nat × Cause)
  undo : List (Nat × Nat × Nat × Nat)
deriving DecidableEq, Repr

/-- An operation of the array pipe (R193, R196). -/
inductive ArrayKind where
  | mmac (p : Nat) (a b : Nat) (ka kb : V512) (cfg : TileCfg)
  | mzero
  | mhad
deriving DecidableEq, Repr

/-- An array operation in flight: accumulator, the engine cycle it retires in (R184), and the flags it has raised once
it has taken effect: ahead of its time where a later one on the accumulator retires before it. -/
structure ArrayOp where
  acc : Nat
  kind : ArrayKind
  retire : Nat
  ran : Option Flags
deriving DecidableEq, Repr

/-- A drain in flight (R197, R198): row r is pushed in engine cycle rowAt[r]. -/
structure Drain where
  acc : Nat
  q1 : Bool
  cfg : TileCfg
  start : Nat
  next : Nat
  retire : Nat
  flags : Flags
  num : Nat                 -- matrix and control divisors at its commit
  den : Nat
deriving DecidableEq, Repr

/-- The matrix engine of a core (R183 to R203). -/
structure Matrix where
  m : Vector MTile 16
  a : Vector ATile 4
  cfg : Option TileCfg
  rp : Vector (BitVec 6) 20
  rtile : Nat
  err : Option (Cause × W64)
  /-- Engine cycles: control cycles in which its array and drain pipes ran (R184). -/
  clk : Nat
  xfer : List Transfer
  xferFree : Nat
  arr : List ArrayOp
  arrFree : Nat
  drn : List Drain
  drnFree : Nat
  /-- Scale loads landing: register, bytes, time (R192). -/
  mldc : List (Nat × V512 × Nat)
deriving DecidableEq, Repr

/-- An entry of a queue (R199, R215, R277). -/
structure QEntry where
  data : V512
  seq : BitVec 16
  bad : Bool                    -- an uncorrectable soft error stands in it (R288, R384)
deriving DecidableEq, Repr

/-- A slot of the rule-value file (R207). -/
structure RuleSlot where
  value : V512
  depth : Nat
deriving DecidableEq, Repr

/-- A Sedge pass (R207, R210, R212). -/
structure Pass where
  handle : BitVec 128
  off : Nat
  xb : Nat
  lim : Nat
  scl : BitVec 32
  hdrRead : Bool
  tfmt : Fmt
  nsym : Nat
  pos : Nat
  idx : BitVec 32
  opened : Option (Nat × Nat)   -- slot and declared depth of the open rule
  dep : Nat
  acc : V512
  row : V512
  rowUsed : Bool                -- the current row holds a symbol (R206)
  rules : Tbl (Option RuleSlot)
  flags : Flags
  rows : BitVec 32
  /-- The first identifier after the pass's trigger, and whether its grammar is still to be read: after the strand's
  accesses before it, of which one has still to be performed (R223, R328). -/
  since : Nat
  pend : Bool
  /-- Lines requested so far, the requests under way with their arrival times and when they were made, and the lines
  that have arrived (R214): index from the header's line. -/
  asked : Nat
  flying : List (Nat × Nat × Nat)
  lines : List (Nat × BitVec 1024 × Option Cause)
  /-- Lines of the grammar still to arrive, as they stood at sg.pass (R223), and whether they hit. -/
  saved : List (Nat × BitVec 1024 × Option Cause × Bool)
  /-- Rows issued and not yet pushed: entry, engine cycle (R215). -/
  pushes : List (QEntry × Nat)
  lastPush : Nat
  issueFrom : Option Nat        -- engine cycle from which symbols issue
  finish : Option Nat           -- engine cycle the pass ends in (R216)
  fail : Option (Cause × W64)   -- a failing symbol (R220)
  stalled : Bool
  skip : Bool                   -- the level-3 alternate cycle (R214)
deriving DecidableEq, Repr

/-- The Sedge engine of a core (R207, R209). -/
structure Sedge where
  pass : Option Pass
  passes : BitVec 32
  syms : Nat
  rows : BitVec 32
  err : Option (Cause × W64)
  clk : Nat                     -- control cycles in which the engine ran (R217)
deriving DecidableEq, Repr

/-- A strand switched out: the strand, and what a core keeps of it beside its save area (R177, R191, R208,
R247, R327). -/
structure Parked where
  run : Running
  cpDone : BitVec 32
  gaDone : BitVec 32
  passes : BitVec 32
  syms : Nat
  rows : BitVec 32
  cpErr : Option (Cause × W64)
  gaErr : Option (Cause × W64)
  mxErr : Option (Cause × W64)
  sgErr : Option (Cause × W64)
  bad : List BadReg
  late : List (Cause × W64)
  readTimes : List ReadTime
deriving DecidableEq, Repr

/-- What a context keeps on a core (R31, R207, R246, R250, R252, R256). -/
structure PerCtx where
  ncs : BitVec 10
  divCtl : Nat
  divVec : Nat
  divMat : Nat
  divCpy : Nat
  lim : Nat
  scl : BitVec 32
  gmode : Bool
  ec : BitVec 56
  satf : Bool
  carry : Nat                   -- units carried to the next harvest (R378)
  carrySat : Bool
  rtk : Nat
  odebt : Nat
  /-- A strand of the context is saved on the core (R247). -/
  saved : Option Parked
  /-- The context's save area on the core holds a control block (R249, R250). -/
  inArea : Bool
deriving DecidableEq, Repr

/-- One core. -/
structure Core where
  time : Nat                    -- start of its next control cycle
  ctx : CtxId
  phase : Phase
  pc : Target
  halves : Vector Half 2
  halfCtx : Vector CtxId 2      -- the context whose segment each half holds
  cur : Fin 2                   -- the half of the executing segment
  run : Option Running
  rf : RegFile
  lat : Latches
  ports : Ports
  loops : List LoopEntry
  vrb : Nat
  prb : Nat
  ccyc : W64
  frz : W64
  splc : W64
  bs : BundleState
  masked : Bool
  capsule : Option Capsule
  capst : Bool                  -- a CAPST has committed since trap entry (R237)
  readTimes : List ReadTime     -- of the trapped bundles of the strand still to be re-entered, latest first (R68)
  ui : UiState
  fl : List Flight
  lsHold : V512                 -- result of the youngest ls trigger outside handlers (R165)
  lsYoung : Nat
  lsHoldUi : V512               -- and of the youngest inside a handler (R24, R180)
  lsYoungUi : Nat
  bad : List BadReg
  late : List (Cause × W64)     -- races for the next acquire or release (R327)
  l1 : List L1Line
  epoch : Nat
  spad : Memory
  spadBad : List Nat            -- scratchpad bytes with an uncorrectable soft error (R384)
  cp : CopyEngine
  ga : GatherEngine
  mx : Matrix
  q0 : List QEntry
  q1 : List QEntry
  resv0 : Nat
  resv1 : Nat
  q2 : List QEntry
  q3 : List QEntry
  q3cnt : BitVec 16
  sg : Sedge
  /-- Scratchpad banks whose slot 3 is in use, by time of the control cycle (R152). -/
  slot3 : List (Nat × Nat)
  /-- Request slots held by accesses that take effect at once, write-backs and the reads of a capsule image: the times
  at which they are free again (R164, log 8). -/
  slotsHeld : List Nat
  /-- The node entries that the strand unit caches, by context, template and node, the latest used first (R119, log 9). -/
  nodeCache : List (CtxId × Nat × Nat)
  inSlice : Bool                -- a slice of `ctx` is in force (R247)
  sliceFrom : Nat               -- its start
  budget : Nat                  -- B of R248, in ref ticks
  switchDue : Bool              -- the switch is pending
  idleFrom : Nat                -- since when no context is resident, and the counts of R259
  idle : Nat
  resFrom : Nat
  pc' : Vector PerCtx 16
  /-- Encoder bound to w3 (R357): stream of the running frame; pipe buffers bound to w4-w7, q4-q7. -/
  w3 : Option StrmId
  outPipe : Vector (Option Nat) 4
  inPipe : Vector (Option Nat) 4
  gangHold : Option Nat         -- the gang that holds the core until its last member ends (R278)
deriving DecidableEq, Repr

/-- A gang record (R275). -/
structure Gang where
  m : Nat
  nodes : List Nat
  /-- (producer member, producer port, consumer member, consumer head). -/
  pipes : List (Nat × Nat × Nat × Nat)
deriving DecidableEq, Repr

/-- A record of a task queue with what it carries beside its 64 bytes (R302). -/
structure QRec where
  uid : Nat
  rcd : Record
  launch : Option Nat
  released : Option Nat         -- ns of its release (R303)
  absDl : Option Int            -- absolute deadline, ns
  bud : Nat
  frozen : Nat
  split : Nat
  vc : Vc
  gang : Option (Gang × List (BitVec 56))
deriving DecidableEq, Repr

/-- A pipe buffer of a cluster (R276, R277); entries with whether the consumer can read them. -/
structure Pipe where
  gang : Nat
  prod : CoreId
  cons : CoreId
  entries : List (QEntry × Bool)
  seq : BitVec 16
  freed : List Nat              -- times at which the producer sees popped space
  prodEnded : Bool
  consEnded : Bool
deriving DecidableEq, Repr

/-- An input selection of a transfer phase (R283). -/
structure Sel where
  fwd : Option Dir
  dlv : Option (Fin 8)
deriving DecidableEq, Repr

/-- The Hedgerow side of a cluster (R280 to R285). -/
structure Hedge where
  strand : Option CoreId        -- the phase strand
  mask : W64
  active : Bool
  hend : Bool                   -- its HEND has committed or it has ended
  sel : Vector Sel 4
  arriving : List (Nat × Dir × V512)
  outUsed : List (Nat × Dir)
  landed : List (Nat × Fin 8)   -- words put into a core's q3, by time
  drops : Nat
deriving DecidableEq, Repr

/-- What a cluster in retention has written to its spill area: set counters by key, lock lists by line, and its
task-queue records (R286). -/
structure Spill where
  counters : Tbl (BitVec 16)
  locks : List (Nat × List CtxId)
  queue : List QRec
deriving DecidableEq, Repr

/-- One cluster. -/
structure Cluster where
  press : Nat
  pressAsked : Nat
  calmSince : Nat
  divfl : Nat
  queue : List QRec
  pipes : Vector (Option Pipe) 16
  hedge : Hedge
  retained : Bool
  spill : Option Spill
  resv : Option Nat             -- the promoted gang entry that reserves cores (R308)
  errCount : Nat                -- corrected soft errors (R384)
deriving DecidableEq, Repr

/-- A marker on a slice line (R322). -/
structure Marker where
  core : CoreId
  epoch : Nat
  scope : Sc
deriving DecidableEq, Repr

/-- A line resident in its home slice (R266, R268, R169, R322). Its bytes are those of device memory. -/
structure SLine where
  version : BitVec 16
  dirty : Bool
  marker : Option Marker
  holders : List CtxId
  used : Nat
  lastCtx : Option CtxId        -- the context that last wrote it; none for the house (R380)
  vacant : Bool                 -- its way is kept by a lock, its data are to be filled afresh (R287)
deriving DecidableEq, Repr

/-- An access a slice has seen to a granule (R325). -/
structure Seen where
  uid : Nat
  clk : Nat
  core : CoreId
  sliceOp : Bool
deriving DecidableEq, Repr

/-- What the slices track of a granule (R325). -/
structure Granule where
  writes : List Seen
  reads : List Seen
deriving DecidableEq, Repr

/-- Releases performed at a table or unit of the die, in order after the strand's accesses (R321). -/
inductive TkOp where
  | post (q : QRec) (k : ClusterId)
  | jinit (j : Nat) (v : Nat)
  | jdec (j : Nat)
deriving DecidableEq, Repr

/-- Kinds of memory request (R164, R322, R270). -/
inductive ReqKind where
  | load (sext : Bool)
  | lane (i : Nat)
  | store
  | prefetch (l2 : Bool)
  | lda (sc : Sc)
  | strl (sc : Sc)
  | atom (op : Ao) (cmp : Nat) (uns : Bool) (ord : Nat) (sc : Sc)
  | clrd (sp : Nat)
  | cms (cm vm : Nat) (vers : Nat) (ord : Nat) (sc : Sc)
  | lock
  | unlock
  | tk (op : TkOp)
  | spad (acq : Bool)       -- the place in order of an LDA or STRL through the scratchpad handle (R317)
deriving DecidableEq, Repr

/-- A memory request of a core (R164). A held request waits for the accesses before it (R317, R318). -/
structure Req where
  id : Nat
  core : CoreId
  uid : Nat
  ctx : CtxId
  kind : ReqKind
  pa : Nat
  n : Nat
  data : Nat
  fid : Nat
  vc : Vc
  held : Bool
  start : Nat               -- it leaves no earlier
  lane : Bool               -- a lane that the vector unit issues: one leaves a control cycle (R149)
  due : Nat                 -- when it reaches its slice, once it has left the core
  served : Bool
  value : Nat
  bad : Option Cause
  va : W64
  psz : Nat                 -- log2 of the size of the page its handle names (R159)
  fence : List SyncMsg      -- the release fences of which it is the first write (R315)
deriving DecidableEq, Repr

/-- A join counter (R296); waiting strands with their cluster, and parked launches. -/
structure Join where
  value : BitVec 32
  own : Option CtxId
  err : Bool
  waiters : List (QRec × ClusterId)
  parked : List Nat
  vc : Vc
deriving DecidableEq, Repr

/-- A lease range (R295). -/
structure Lease where
  vbase : Nat
  len : Nat
  pr : Bool
  pw : Bool
  pa : Bool
deriving DecidableEq, Repr

/-- Where a launch stands (R293). -/
inductive LStep where | parked | held | start | lease | frame | live | empty | closing
deriving DecidableEq, Repr

/-- A node of a frame (R304). -/
structure NodeAcc where
  tmpl : Nat
  node : Nat
  due : Option Nat              -- due tick D, once its first record is released
  live : Nat
  released : Bool
  finished : Bool
  frozen : Nat
  split : Nat
  counted : Nat                 -- overrun that STALL already has
deriving DecidableEq, Repr

/-- A launch accepted and not completed (R291, R293, R300). -/
structure Launch where
  id : Nat
  ctx : CtxId
  op : Nat
  tmpl : Nat
  node : Nat
  strm : StrmId
  sv : Bool
  count : Nat
  param : W64
  startAt : W64
  entry : BitVec 56
  ltab : Nat
  nl : Nat
  wj : Option Nat
  dj : Option Nat
  ctag : W64
  pfx : Nat
  pfxRead : Bool                -- its descriptor was read at step 1 (R351)
  gang : Option Nat             -- the address of its gang record
  step : LStep
  accepted : Int                -- the tick in which it comes to step 5 (R310)
  leases : List Lease
  origin : Nat
  base : BitVec 32
  fseq : BitVec 32
  rung : Nat
  created : Nat
  live : Nat
  cause : Option Cause
  junder : Bool
  deperr : Bool
  late : Bool
  dropped : Bool                -- the frame has changed the ladder (R310)
  stall : Nat
  nodes : List NodeAcc
  pinned : Option (Nat × Nat)   -- tree and node of a resume (R351)
  faultSeqs : List Nat          -- fault records it holds (R405)
  frPages : List Nat            -- and the pages of those records
  frNext : Option (Nat × Nat)   -- lease range and address whose records wait for ring space (R405)
  vc : Vc
deriving DecidableEq, Repr

/-- A rung of a ladder (R309). -/
structure Rung where
  enode : Nat
  snode : Nat
  tmpl : Nat
  entry : BitVec 56
  gang : Nat
deriving DecidableEq, Repr

/-- States of a ring slot (R353). -/
inductive SlotSt where | free | prod | ready
deriving DecidableEq, Repr

/-- A tile in an encoder's frame store (R411): its place in its plane, and its samples in raster order. -/
structure Tile where
  plane : Nat
  x : Nat
  y : Nat
  w : Nat
  h : Nat
  samples : Nat
deriving DecidableEq, Repr

/-- A ring slot and its frame (R353, R361). -/
structure RSlot where
  st : SlotSt
  rseq : BitVec 32
  fseq : BitVec 32
  rung : Nat
  tiles : Nat
  taken : List Tile
  written : Nat                                -- RAW bytes written
  ovf : Bool
  vc : Vc                                      -- of the release that freed the slot (R356)
deriving DecidableEq, Repr

/-- A page of a key-value window (R363), oldest first in its list. -/
structure WPage where
  pos : Nat
  pa : Nat
  pinned : Bool
deriving DecidableEq, Repr

/-- An open stream (R309, R352, R353, R363). -/
structure Stream where
  ctx : CtxId
  origin : W64
  period : BitVec 32
  dloff : BitVec 32
  climb : Nat
  rungs : List Rung
  rung : Nat
  ontime : Nat
  /-- Frames that have completed and not yet moved the ladder: tick, FSEQ, late (R310). -/
  ladder : List (Int × BitVec 32 × Bool)
  fseq : BitVec 32
  link : Nat
  obase : Nat
  slotsz : Nat
  slots : List RSlot
  ev : Bool
  enc : Fin 8
  codec : Nat
  depth : Nat
  wid : Nat
  hgt : Nat
  gop : Nat
  coded : Nat                   -- frames encoded, for key frames (R360)
  acqc : BitVec 32
  donec : BitVec 32
  relc : BitVec 32
  nseq : BitVec 32
  waiters : List (QRec × ClusterId × Nat)   -- suspended claims and the awaited slot (R355)
  vw : Nat
  cap : Nat
  win : List WPage
  appc : BitVec 32
  tdrop : BitVec 32
  ferr : BitVec 32
  w3seq : BitVec 16
  closing : Option Nat          -- the close waiting (R352)
  closeFrom : Option Nat        -- its window pages go: requests numbered below it are waited for (R159)
  vc : Vc
deriving DecidableEq, Repr

/-- A tree's descriptor copy (R332, R333). -/
structure Tree where
  own : CtxId
  gl : Nat
  keyb : Nat
  nn : Nat
  nodeb : Nat
  unitb : Nat
  payb : Nat
  idxb : Nat
  desc : Nat
  vcs : Tbl Vc                  -- what the depositor of each payload had seen (R350)
deriving DecidableEq, Repr

/-- A tile being taken by an encoder (R358). -/
structure TileTake where
  strm : StrmId
  hdr : Nat
  need : Nat                    -- entries still to take
  data : List V512
  use : Bool
deriving DecidableEq, Repr

/-- An encoder (R357 to R361, R411): queue entries with stream, sequence and whether they arrived. -/
structure Encoder where
  queue : List (StrmId × QEntry × Bool)
  takes : List TileTake
  skip : List StrmId
  ended : List (StrmId × Nat)   -- ended frames awaiting coding: stream and slot
deriving DecidableEq, Repr

/-- A signed reading kept for fetches (R393). -/
structure Reading where
  seq : W64
  body : List Byte
deriving DecidableEq, Repr

/-- A context's registers outside the cores (R246, R289, R363, R367, R388, R393). -/
structure Ctx where
  tvec : W64
  capb : W64
  saveb : W64
  tdir : W64
  slice : W64
  ovrl : W64
  lockq : W64
  mapb : W64
  mapn : W64
  csb : W64
  csn : W64
  cst : BitVec 32
  csh : BitVec 32
  cqb : W64
  cqn : W64
  cqh : BitVec 32
  cqt : BitVec 32
  evb : W64
  evn : W64
  evh : BitVec 32
  evt : BitVec 32
  evlost : W64
  ena : Bool
  heldC : List (BitVec 256)     -- completions held on a full ring (R290)
  seq : BitVec 16
  cseq : BitVec 16
  eseq : Tbl Nat                -- event sequence numbers by source (R307)
  held : Nat                    -- lines locked (R169)
  kpb : W64
  kpcap : W64
  kpfree : W64
  kplost : W64
  djb : W64
  djn : W64
  djt : BitVec 32
  djh : BitVec 32
  tenant : W64
  rseq : W64
  st : BitVec 2
  dead : Bool                   -- terminated by DBLFAULT until ENA is set again (R243)
  gddrBytes : Nat
  linkBytes : Nat
deriving DecidableEq, Repr

/-- A total of the meter (R381). -/
structure Total where
  tot : BitVec 96
  hseq : BitVec 32
  stamp : W64
  sati : Bool
deriving DecidableEq, Repr

/-- The global timer (R373, R374): value `base` at time `since`, trimmed by trim x 10^-8; no exchange is made before
timer value `next`, and none has succeeded since value `okAt`. -/
structure Timer where
  base : Nat
  since : Nat
  trim : Int
  lock : Bool
  hold : Bool
  ptmiv : Nat
  next : Int
  okAt : Int
deriving DecidableEq, Repr

/-- What is reported to the supervisor of a strand or context that a fault ended (R242, R243). -/
structure EndReport where
  core : CoreId
  ctx : CtxId
  cause : Cause
  faddr : W64
  baddr : W64
  w0 : W64
  w1 : W64
  w2 : W64
  w3 : W64
deriving DecidableEq, Repr

/-- Die-wide registers and the always-on domain. -/
structure Die where
  powered : Bool
  held : Bool                   -- held in reset by a refused image (R389)
  stopped : Bool                -- T2 has stopped packet intake (R387)
  ttlen : Nat
  ttHist : List (Nat × Nat)     -- changes of TTLEN since a launch was live: ns, old length (R300)
  starv : Nat
  fwdl : Nat
  pwdl : Nat
  revCount : BitVec 32
  cw : Vector (BitVec 24) 16
  swGen : Nat                   -- 0, or the harvest whose static weights are in force (R380)
  mwb : Nat
  fwb : Nat
  bktb : W64
  bken : W64
  bkxarg : W64
  bkxbuf : W64
  bkxlen : W64
  bkxstat : W64
  devid : BitVec 20
  hswd : W64
  peers : Tbl Nat
  frb : W64
  frn : W64
  frt : BitVec 32
  frh : BitVec 32
  frSeq : Nat
  scarg : W64
  scbuf : W64
  scstat : W64
  rdSeq : W64                   -- reading sequence number (R391)
  readings : List Reading
  trips : Vector Bool 3
  junction : Nat                -- the sensors' last reading: temperature, and the hottest clusters (R386)
  hot : List ClusterId
  saving : Option Nat           -- progress of an emergency save (R387)
  timer : Timer
  totals : Vector Total 17
  houseBytes : Nat              -- bytes charged to the house: of GDDR-7, and of the links (R380)
  houseLink : Nat
  lastHarvest : Nat
  reports : List EndReport      -- oldest first
  fwDigest : BitVec 256         -- of the firmware image that runs (R389)
  posted : List Instr           -- posted writes of the links that wait for a home in retention, oldest first (R329)
deriving DecidableEq, Repr

/-- What strikes the part from outside: a soft error (R288, R383, R384), corrected in a cluster, or uncorrectable in a line
as it is read, in an L1, in a register, or in entry i of a queue head; or a reading of the sensors (R386): the hottest
junction's temperature in degrees, and the hottest clusters, the hottest first. -/
inductive Stimulus where
  | corrected (k : ClusterId)
  | line (n : Nat)
  | l1 (c : CoreId) (n : Nat)
  | reg (c : CoreId) (r : RegName)
  | head (c : CoreId) (n : Fin 8) (i : Nat)
  | spad (c : CoreId) (a : Nat)
  | hostRead (a n : Nat)
  | heat (temp : BitVec 8) (hot : List ClusterId)
deriving DecidableEq, Repr

/-- The whole part. The last fields are the model's own: the event list, delays for open reply times
and the counters of identifiers (log 3, log 5). -/
structure State where
  now : Nat
  cores : Vector Core 512
  clusters : Vector Cluster 64
  ctxs : Vector Ctx 16
  mem : Memory
  poison : Tbl Bool             -- poisoned lines (R288)
  sward : Tbl (BitVec 2)        -- block tags (R396)
  swardB : Tbl Nat              -- b of the stored code of a block of tag 2 (R397)
  slines : Tbl (Option SLine)
  setCtr : Tbl (BitVec 16)
  granules : Tbl Granule
  syncs : Tbl (List SyncMsg)
  reqs : List Req
  joins : Tbl Join
  launches : List Launch
  streams : Tbl (Option Stream)
  trees : Tbl (Option Tree)
  kvCount : Tbl (BitVec 16)     -- counts of key-value pages by page number (R344)
  kvOwner : Tbl (BitVec 4)
  encs : Vector Encoder 8
  decs : Vector (Option (CtxId × Nat)) 4
  die : Die
  hostVc : Vc
  cur : CoreId                  -- the core that executes a bundle or a move
  events : List (Nat × Instr)   -- steps scheduled, by time
  stimuli : List (Nat × Stimulus)   -- soft errors and sensor readings to come, by time (log 29, log 30)
  delays : List Nat             -- delays of open replies, in quanta
  nextId : Nat
  free : Nat
deriving DecidableEq, Repr

/-! ### After reset -/

def RegFile.reset : RegFile where
  g := Vector.replicate 64 0
  o := Vector.replicate 16 0
  v := Vector.replicate 64 0
  p := Vector.replicate 16 0
  h := Vector.replicate 16 0
  c := Vector.replicate 8 0
  f := Vector.replicate 16 0
  z := Vector.replicate 8 0
  x := Vector.replicate 8 0

def Latches.reset : Latches := Vector.replicate 12 none
def Ports.reset : Ports := Vector.replicate 43 none

def BundleState.reset : BundleState where
  hdr := 0
  ops := Vector.replicate 8 none
  slot := 0
  resume := 0
  branch := none
  leave := none
  leaveSlot := 0
  uiret := false
  tret := none
  imageVa := 0
  imageAt := none
  waits := []
  level := none
  frozenSince := none
  committed := false
  quiet := false
  pipeWait := false
  wdSlot := 0
  wdVa := 0
  waitFrom := []
  ncs0 := 0
  ec0 := 0
  deferred := []
  vxOld := []
  f0 := Vector.replicate 16 0
  picked := none
  dropping := false
  arrived := false
  reenter := none
  kept := none
  since := none

def Matrix.reset : Matrix where
  m := Vector.replicate 16 (Vector.replicate 32 0)
  a := Vector.replicate 4 (Vector.replicate 32 0)
  cfg := none
  rp := Vector.replicate 20 32
  rtile := 0
  err := none
  clk := 0
  xfer := []
  xferFree := 0
  arr := []
  arrFree := 0
  drn := []
  drnFree := 0
  mldc := []

def Sedge.reset : Sedge := ⟨none, 0, 0, 0, none, 0⟩

def PerCtx.reset : PerCtx where
  ncs := 0
  divCtl := 3
  divVec := 3
  divMat := 3
  divCpy := 3
  lim := 31
  scl := 0x3F800000
  gmode := false
  ec := 0
  satf := false
  carry := 0
  carrySat := false
  rtk := 0
  odebt := 0
  saved := none
  inArea := false

def UiState.reset : UiState := ⟨none, 0, false, ⟨0, 0⟩, Latches.reset, Ports.reset⟩

def Core.reset : Core where
  time := 0
  ctx := 0
  phase := .idle
  pc := ⟨0, 0⟩
  halves := Vector.replicate 2 .empty
  halfCtx := Vector.replicate 2 0
  cur := 0
  run := none
  rf := RegFile.reset
  lat := Latches.reset
  ports := Ports.reset
  loops := []
  vrb := 0
  prb := 0
  ccyc := 0
  frz := 0
  splc := 0
  bs := BundleState.reset
  masked := false
  capsule := none
  capst := false
  readTimes := []
  ui := UiState.reset
  fl := []
  lsHold := 0
  lsYoung := 0
  lsHoldUi := 0
  lsYoungUi := 0
  bad := []
  late := []
  l1 := []
  epoch := 0
  spad := []
  spadBad := []
  cp := ⟨none, none, 0, none, []⟩
  ga := ⟨[], 0, none⟩
  mx := Matrix.reset
  q0 := []
  q1 := []
  resv0 := 0
  resv1 := 0
  q2 := []
  q3 := []
  q3cnt := 0
  sg := Sedge.reset
  slot3 := []
  slotsHeld := []
  nodeCache := []
  inSlice := false
  sliceFrom := 0
  budget := 0
  switchDue := false
  idleFrom := 0
  idle := 0
  resFrom := 0
  pc' := Vector.replicate 16 PerCtx.reset
  w3 := none
  outPipe := Vector.replicate 4 none
  inPipe := Vector.replicate 4 none
  gangHold := none

def Hedge.reset : Hedge := ⟨none, 0, false, false, Vector.replicate 4 ⟨none, none⟩, [], [], [], 0⟩

def Cluster.reset : Cluster where
  press := 0
  pressAsked := 0
  calmSince := 0
  divfl := 3
  queue := []
  pipes := Vector.replicate 16 none
  hedge := Hedge.reset
  retained := false
  spill := none
  resv := none
  errCount := 0

def Ctx.reset : Ctx where
  tvec := 0
  capb := 0
  saveb := 0
  tdir := 0
  slice := 0
  ovrl := 0
  lockq := 0
  mapb := 0
  mapn := 0
  csb := 0
  csn := 4
  cst := 0
  csh := 0
  cqb := 0
  cqn := 4
  cqh := 0
  cqt := 0
  evb := 0
  evn := 4
  evh := 0
  evt := 0
  evlost := 0
  ena := false
  heldC := []
  seq := 0
  cseq := 0
  eseq := []
  held := 0
  kpb := 0
  kpcap := 0
  kpfree := 0
  kplost := 0
  djb := 0
  djn := 4
  djt := 0
  djh := 0
  tenant := 0
  rseq := 0
  st := 0
  dead := false
  gddrBytes := 0
  linkBytes := 0

def Die.reset : Die where
  powered := true
  held := false
  stopped := false
  ttlen := 1000
  ttHist := []
  starv := 10000
  fwdl := 100000
  pwdl := 10000000
  revCount := 0
  cw := Vector.replicate 16 0
  swGen := 0
  mwb := 0
  fwb := 0
  bktb := 0
  bken := 0
  bkxarg := 0
  bkxbuf := 0
  bkxlen := 0
  bkxstat := 0
  devid := 0
  hswd := 0
  peers := []
  frb := 0
  frn := 4
  frt := 0
  frh := 0
  frSeq := 0
  scarg := 0
  scbuf := 0
  scstat := 0
  rdSeq := 0
  readings := []
  trips := Vector.replicate 3 false
  junction := 0
  hot := []
  saving := none
  timer := ⟨0, 0, 0, false, false, 10, 0, 0⟩
  totals := Vector.replicate 17 ⟨0, 0, 0, false⟩
  houseBytes := 0
  houseLink := 0
  lastHarvest := 0
  reports := []
  fwDigest := 0
  posted := []

/-- A free join counter (R296). -/
def Join.reset : Join := ⟨0, none, false, [], [], []⟩

/-- An untouched granule. -/
def Granule.reset : Granule := ⟨[], []⟩

def Encoder.reset : Encoder := ⟨[], [], [], []⟩

/-- The part right after reset: every field at the value the manual gives, and at the value log 1,
log 2 or log 4 names where it gives none. Nothing is placed; the first harvest is scheduled (R377). -/
def State.reset : State where
  now := 0
  cores := Vector.replicate 512 Core.reset
  clusters := Vector.replicate 64 Cluster.reset
  ctxs := Vector.replicate 16 Ctx.reset
  mem := []
  poison := []
  sward := []
  swardB := []
  slines := []
  setCtr := []
  granules := []
  syncs := []
  reqs := []
  joins := []
  launches := []
  streams := []
  trees := []
  kvCount := []
  kvOwner := []
  encs := Vector.replicate 8 Encoder.reset
  decs := Vector.replicate 4 none
  die := Die.reset
  hostVc := []
  cur := 0
  events := [(2700000000, .harvest), (2700000000, .ptmHoldover)]
  stimuli := []
  delays := []
  nextId := 1
  free := 0

end Sys2Proof.Machine
end

