-- ==== Sys2Proof/Machine/Flags.lean ====
section
/-! DEFINITION. NCS: sticky flags in bits [7:0], RM in bits [9:8] (R31, R32, R255). -/

namespace Sys2Proof.Machine

/-- Flags raised: each is set to 1, none is cleared (R32). -/
def ncsRaise (n : BitVec 10) (f : Flags) : BitVec 10 := n ||| f.zeroExtend 10

/-- Flags cleared by a write of the system unit (R255). -/
def ncsClear (n : BitVec 10) (f : Flags) : BitVec 10 := n &&& ~~~(f.zeroExtend 10)

/-- The rounding mode of NCS (R30, R31). -/
def ncsRm (n : BitVec 10) : Rm := Rm.dec (n.toNat / 256)

end Sys2Proof.Machine
end

