-- ==== Sys2Proof/Decode.lean ====
section
/-! DEFINITION. Decoding of slots and bundles (R49 to R64, R86, R87 to R105), total on any bits and
rejecting by name, and after it the encoder of the same tables. -/

namespace Sys2Proof

/-! ### Register names (R17) -/

/-- Spaces of register names (R17); `sp` the special readables, `un` the unassigned names (R27). -/
inductive RSpace where | g | o | v | p | h | m | a | c | f | z | x | sp | un
deriving DecidableEq, Repr

/-- Why a decode refuses. -/
inductive Reject where
  | header          -- header bits [35:32] (R51)
  | kind            -- KIND 6 to 15 (R51)
  | space           -- latch b12 to b15 or an unassigned value of source space 01 (R57)
  | selector        -- unlisted selector of source space 11 (R58)
  | special         -- unassigned special readable (R19, R27)
  | destination     -- a special readable as destination (R19)
  | keep            -- K where it is not allowed (R59, R63, R89)
  | fsel            -- undefined FSEL (R59, R63, R91)
  | sourceClass     -- source class not accepted (R60, R88)
  | port            -- unassigned port (R104)
  | twoTriggers     -- two triggers of one unit (R64)
  | readPorts       -- main-file read ports (R52)
  | operandReads    -- more than eight o registers (R53)
  | group           -- misaligned or overrunning group (R18): ILLOPD
  | control         -- TRET or UIRET beside a branch, TRET in a loop close (R182, R238)
  | handler         -- x0 to x7 outside a user-level interrupt handler (R19): ILLOPD
  | length          -- bits of no slot and no bundle
deriving DecidableEq, Repr

/-- Whether the refusal is ILLOPD; all others are ILLENC (R86). -/
def Reject.operand : Reject → Bool
  | .group => true
  | .handler => true
  | _ => false

/-- Space of a register name (R17). -/
def nameSpace (n : Nat) : RSpace :=
  if n < 0x40 then .g else if n < 0x50 then .o else if n < 0x90 then .v else if n < 0xA0 then .p
  else if n < 0xB0 then .h else if n < 0xC0 then .m else if n < 0xC4 then .a else if n < 0xCC then .c
  else if n < 0xDC then .f else if n < 0xE4 then .z else if n < 0xEC then .x
  else if n < 0xF9 then .sp else .un

/-- First name of a space, and its count of registers (R17). -/
def RSpace.base : RSpace → Nat
  | .g => 0 | .o => 0x40 | .v => 0x50 | .p => 0x90 | .h => 0xA0 | .m => 0xB0 | .a => 0xC0 | .c => 0xC4
  | .f => 0xCC | .z => 0xDC | .x => 0xE4 | .sp => 0xEC | .un => 0xF9

def RSpace.count : RSpace → Nat
  | .g => 64 | .o => 16 | .v => 64 | .p => 16 | .h => 16 | .m => 16 | .a => 4 | .c => 8
  | .f => 16 | .z => 8 | .x => 8 | .sp => 13 | .un => 7

/-- Width in bits of a register (R17); m and a are named, never read as values. -/
def RSpace.width : RSpace → Nat
  | .g => 64 | .o => 64 | .v => 512 | .p => 16 | .h => 128 | .m => 64 | .a => 64 | .c => 512
  | .f => 32 | .z => 32 | .x => 64 | .sp => 64 | .un => 64

/-- Index of a name within its space. -/
def nameIndex (n : Nat) : Nat := n - (nameSpace n).base

/-- A group of k registers at a name lies in its space and is aligned (R18). -/
def groupOk (n k : Nat) : Bool :=
  nameIndex n % k == 0 && decide (nameIndex n + k ≤ (nameSpace n).count)

/-! ### Source classes (R88) -/

/-- Class of a source. -/
inductive SClass where | s | v | p | h | m | a | c | f | z
deriving DecidableEq, Repr

/-- Classes a port accepts; t is m or a (R88). -/
inductive Accept where | s | v | p | h | m | a | t | c | f | z
deriving DecidableEq, Repr

def nameClass (n : Nat) : SClass :=
  match nameSpace n with
  | .g | .o | .x | .sp | .un => .s
  | .v => .v | .p => .p | .h => .h | .m => .m | .a => .a | .c => .c | .f => .f | .z => .z

/-- Class of a source (R88). -/
def Src.cls : Src → SClass
  | .reg n => nameClass n.toNat
  | .latch n => if n.val = 4 then .v else .s
  | .head _ => .v
  | .imm _ => .s
  | .pool _ => .s

def Accept.takes : Accept → SClass → Bool
  | .s, .s | .v, .v | .p, .p | .h, .h | .m, .m | .a, .a | .t, .m | .t, .a | .c, .c | .f, .f | .z, .z => true
  | _, _ => false

/-- Registers a move to a register reads and writes as groups (R60); none where R60 says ILLENC. The
flag says whether the source is a g or o register. -/
def moveGroups (cls : SClass) (go : Bool) (d : RSpace) : Option (Nat × Nat) :=
  match d with
  | .g | .o | .x =>
    match cls with
    | .s => some (1, 1) | .p => some (4, 1) | .f | .z => some (2, 1) | .h => some (1, 2) | _ => none
  | .p => match cls with | .s => some (1, 4) | .p => some (1, 1) | _ => none
  | .f | .z => match cls with | .s => some (1, 2) | .f | .z => some (1, 1) | _ => none
  | .v | .c => match cls with | .v | .c => some (1, 1) | _ => none
  | .h => match cls with | .s => if go then some (2, 1) else none | .h => some (1, 1) | _ => none
  | _ => none

/-- Whether a source names a g or o register. -/
def Src.isGO : Src → Bool
  | .reg n => decide (n.toNat < 0x50)
  | _ => false

/-- Registers of a group the source of a move to register `dst` reads (R60). -/
def Src.groupTo (s : Src) (dst : RegName) : Option (Nat × Nat) :=
  moveGroups s.cls s.isGO (nameSpace dst.toNat)

/-! ### Ports (R92 to R103) -/

/-- All ports in the order of R234. -/
def allPorts : List Port :=
  [.iaX, .iaTo, .ibX, .ibTo, .brX, .brTo, .lsH, .lsX, .lsY, .lsMo, .lsTo] ++
  [.vxX, .vxY, .vxP, .vxF, .vxS, .vxH, .vxTo, .mxH, .mxX, .mxY, .mxZ, .mxA, .mxB, .mxCa, .mxCb] ++
  [.sgH, .sgX, .sgXb, .cpH, .cpRec, .cpSp, .cpZ, .gaH, .gaIx, .gaSp, .qxX, .qxTo, .tkX, .tkTo] ++
  [.syX, .syTo, .syH]

/-- Number of a port (R92 to R103). -/
def Port.num : Port → Nat
  | .iaX => 0x100 | .iaTo => 0x101 | .ibX => 0x120 | .ibTo => 0x121 | .brX => 0x140 | .brTo => 0x141
  | .lsH => 0x150 | .lsX => 0x151 | .lsY => 0x152 | .lsMo => 0x153 | .lsTo => 0x154
  | .vxX => 0x170 | .vxY => 0x171 | .vxP => 0x172 | .vxF => 0x173 | .vxS => 0x174 | .vxH => 0x175
  | .vxTo => 0x176
  | .mxH => 0x1A0 | .mxX => 0x1A1 | .mxY => 0x1A2 | .mxZ => 0x1A3 | .mxA => 0x1A4 | .mxB => 0x1A5
  | .mxCa => 0x1A6 | .mxCb => 0x1A7
  | .sgH => 0x1B0 | .sgX => 0x1B1 | .sgXb => 0x1B2
  | .cpH => 0x1B8 | .cpRec => 0x1B9 | .cpSp => 0x1BA | .cpZ => 0x1BB
  | .gaH => 0x1C0 | .gaIx => 0x1C1 | .gaSp => 0x1C2
  | .qxX => 0x1D0 | .qxTo => 0x1D1 | .tkX => 0x1E0 | .tkTo => 0x1E1
  | .syX => 0x1F0 | .syTo => 0x1F1 | .syH => 0x1F2

/-- Classes an operand or `.to` port accepts (R92 to R103). -/
def Port.accept : Port → Accept
  | .lsH | .vxH | .mxH | .sgH | .cpH | .gaH | .syH => .h
  | .vxX | .vxY => .v
  | .vxP => .p
  | .vxF => .f
  | .mxZ | .cpZ => .z
  | .mxA | .mxB => .m
  | .mxCa | .mxCb => .c
  | _ => .s

/-- Whether a port is a `.to` port (R87). -/
def Port.isTo : Port → Bool
  | .iaTo | .ibTo | .brTo | .lsTo | .vxTo | .qxTo | .tkTo | .syTo => true
  | _ => false

/-- Place of a port in the order of R234. -/
def Port.index (p : Port) : Nat := allPorts.findIdx (· == p)

/-- The port with a number. -/
def portOf (n : Nat) : Option Port := allPorts.find? fun p => p.num == n

/-- The units of R92 to R103. -/
inductive UnitName where | ia | ib | br | ls | vx | mx | sg | cp | ga | qx | tk | sy
deriving DecidableEq, Repr

/-- Unit of a unit port by its number (R92 to R103). -/
def unitOf (n : Nat) : UnitName :=
  if n < 0x120 then .ia else if n < 0x140 then .ib else if n < 0x150 then .br else if n < 0x170 then .ls
  else if n < 0x1A0 then .vx else if n < 0x1B0 then .mx else if n < 0x1B8 then .sg
  else if n < 0x1C0 then .cp else if n < 0x1C8 then .ga else if n < 0x1E0 then .qx
  else if n < 0x1F0 then .tk else .sy

/-- Classes a trigger port accepts (R92 to R103). -/
def triggerAccept (n : Nat) : Accept :=
  if n = 0x163 then .h
  else if 0x177 ≤ n ∧ n ≤ 0x195 then .v
  else if n = 0x197 ∨ n = 0x19C ∨ n = 0x19D ∨ n = 0x19E then .v
  else if n = 0x19F then .p
  else if n = 0x1A8 then .m
  else if n = 0x1A9 ∨ n = 0x1AF then .t
  else if n = 0x1AA ∨ n = 0x1AB ∨ n = 0x1AD then .a
  else if n = 0x1AE then .c
  else if n = 0x1D9 ∨ n = 0x1E2 then .v
  else .s

/-- Triggers whose result is P or H: K must be 0 (R89). -/
def keepless (n : Nat) : Bool := n == 0x15F || decide (0x186 ≤ n ∧ n ≤ 0x189) || n == 0x19F

/-- Energy class of a trigger port, but for mmac (R90, R92 to R103). -/
def triggerClass (n fsel : Nat) : Nat :=
  if n < 0x140 then
    if 4 ≤ n % 0x20 ∧ n % 0x20 ≤ 7 then 3 else 2
  else if n < 0x150 then 4
  else if n < 0x170 then (if 0x157 ≤ n ∧ n ≤ 0x15E then 6 else 5)
  else if n < 0x17F then (if fsel = 0 then 7 else 8)
  else if n < 0x1A0 then
    if 0x181 ≤ n ∧ n ≤ 0x185 then 9 else if 0x193 ≤ n ∧ n ≤ 0x19A then 9
    else if 0x19B ≤ n ∧ n ≤ 0x19E then 10 else 8
  else if n < 0x1B0 then 11
  else if n < 0x1B8 then 14
  else if n < 0x1E0 then 15
  else if n < 0x1E9 then 4
  else if n = 0x1EF then 4
  else 15

/-! ### FSEL values (R91) -/

def Wd.code : Wd → Nat | .w64 => 0 | .w32s => 1 | .w32z => 2
def wdOf : Nat → Option Wd | 0 => some .w64 | 1 => some .w32s | 2 => some .w32z | _ => none
def Sw.code : Sw → Nat | .sg64 => 0 | .sg32 => 1 | .un64 => 2 | .un32 => 3
def swOf : Nat → Option Sw
  | 0 => some .sg64 | 1 => some .sg32 | 2 => some .un64 | 3 => some .un32 | _ => none
def Cc.code : Cc → Nat
  | .eq => 0 | .ne => 1 | .lt => 2 | .ge => 3 | .ltu => 4 | .geu => 5 | .le => 6 | .gt => 7 | .leu => 8 | .gtu => 9
def ccOf : Nat → Option Cc
  | 0 => some .eq | 1 => some .ne | 2 => some .lt | 3 => some .ge | 4 => some .ltu | 5 => some .geu
  | 6 => some .le | 7 => some .gt | 8 => some .leu | 9 => some .gtu | _ => none
def Ft.code : Ft → Nat | .f32 => 0 | .bf16 => 1 | .f16 => 2
def ftOf : Nat → Option Ft | 0 => some .f32 | 1 => some .bf16 | 2 => some .f16 | _ => none
def Vt.code : Vt → Nat | .fl t => t.code | .int => 8 | .uint => 9
def vtOf : Nat → Option Vt
  | 0 => some (.fl .f32) | 1 => some (.fl .bf16) | 2 => some (.fl .f16) | 8 => some .int | 9 => some .uint
  | _ => none
def Va.code : Va → Nat | .fl t => t.code | .int => 8
def vaOf : Nat → Option Va
  | 0 => some (.fl .f32) | 1 => some (.fl .bf16) | 2 => some (.fl .f16) | 8 => some .int | _ => none
def Cv.code : Cv → Nat
  | .f2bf => 0 | .f2h => 1 | .bf2f => 2 | .h2f => 3 | .bf2h => 4 | .h2bf => 5 | .f2i => 6 | .f2it => 7
  | .f2ui => 8 | .f2uit => 9 | .i2f => 10 | .ui2f => 11
def cvOf : Nat → Option Cv
  | 0 => some .f2bf | 1 => some .f2h | 2 => some .bf2f | 3 => some .h2f | 4 => some .bf2h | 5 => some .h2bf
  | 6 => some .f2i | 7 => some .f2it | 8 => some .f2ui | 9 => some .f2uit | 10 => some .i2f
  | 11 => some .ui2f | _ => none
def Sz.code : Sz → Nat | .b => 0 | .h => 1 | .w => 2 | .d => 3
def szOf : Nat → Option Sz | 0 => some .b | 1 => some .h | 2 => some .w | 3 => some .d | _ => none
def LdSz.code : LdSz → Nat | .zx z => z.code | .bs => 4 | .hs => 5 | .ws => 6
def ldSzOf : Nat → Option LdSz
  | 0 => some (.zx .b) | 1 => some (.zx .h) | 2 => some (.zx .w) | 3 => some (.zx .d)
  | 4 => some .bs | 5 => some .hs | 6 => some .ws | _ => none
def Sc.code : Sc → Nat | .core => 0 | .clu => 1 | .die => 2 | .sys => 3
def scOf : Nat → Option Sc | 0 => some .core | 1 => some .clu | 2 => some .die | 3 => some .sys | _ => none
def Fk.code : Fk → Nat | .full => 0 | .acq => 1 | .rel => 2
def fkOf : Nat → Option Fk | 0 => some .full | 1 => some .acq | 2 => some .rel | _ => none
def Ao.code : Ao → Nat
  | .aadd => 0 | .aand => 1 | .aor => 2 | .axor => 3 | .amin => 4 | .amax => 5 | .axch => 6 | .acas => 7
def aoOf : Nat → Option Ao
  | 0 => some .aadd | 1 => some .aand | 2 => some .aor | 3 => some .axor | 4 => some .amin
  | 5 => some .amax | 6 => some .axch | 7 => some .acas | _ => none
def HField.code : HField → Nat | .base => 0 | .size => 1 | .perm => 2 | .valid => 3
def hFieldOf : Nat → Option HField
  | 0 => some .base | 1 => some .size | 2 => some .perm | 3 => some .valid | _ => none
def Pl.code : Pl → Nat | .and => 0 | .or => 1 | .xor => 2 | .andn => 3 | .not => 4
def plOf : Nat → Option Pl
  | 0 => some .and | 1 => some .or | 2 => some .xor | 3 => some .andn | 4 => some .not | _ => none
def TForm.code : TForm → Nat | .abs => 0 | .seg => 1
def tFormOf : Nat → Option TForm | 0 => some .abs | 1 => some .seg | _ => none
def Pw.code : Pw → Nat | .p1 => 0 | .p2 => 1 | .p4 => 2 | .p8 => 3 | .p16 => 4
def pwOf : Nat → Option Pw
  | 0 => some .p1 | 1 => some .p2 | 2 => some .p4 | 3 => some .p8 | 4 => some .p16 | _ => none
def SgField.code : SgField → Nat | .state => 0 | .syms => 1 | .rows => 2
def sgFieldOf : Nat → Option SgField | 0 => some .state | 1 => some .syms | 2 => some .rows | _ => none
def RingField.code : RingField → Nat | .prod => 0 | .cons => 1 | .free => 2
def ringFieldOf : Nat → Option RingField | 0 => some .prod | 1 => some .cons | 2 => some .free | _ => none
def Dir.code : Dir → Nat | .n => 0 | .e => 1 | .s => 2 | .w => 3
def dirOf : Nat → Option Dir | 0 => some .n | 1 => some .e | 2 => some .s | 3 => some .w | _ => none
def Dom.code : Dom → Nat | .ctl => 0 | .vec => 1 | .mat => 2 | .cpy => 3
def domOf : Nat → Option Dom | 0 => some .ctl | 1 => some .vec | 2 => some .mat | 3 => some .cpy | _ => none
def SnField.code : SnField → Nat | .nodes => 0 | .free => 1 | .coll => 2 | .evict => 3
def snFieldOf : Nat → Option SnField
  | 0 => some .nodes | 1 => some .free | 2 => some .coll | 3 => some .evict | _ => none
def StField.code : StField → Nat
  | .rung => 0 | .ontime => 1 | .period => 2 | .dloff => 3 | .fseq => 4 | .origin => 5
def stFieldOf : Nat → Option StField
  | 0 => some .rung | 1 => some .ontime | 2 => some .period | 3 => some .dloff | 4 => some .fseq
  | 5 => some .origin | _ => none
def CapField.code : CapField → Nat | .cause => 0 | .faddr => 1 | .resume => 2 | .bundle => 3
def capFieldOf : Nat → Option CapField
  | 0 => some .cause | 1 => some .faddr | 2 => some .resume | 3 => some .bundle | _ => none
def flagOf : Nat → Option Bool | 0 => some false | 1 => some true | _ => none

/-! ### Sources (R57, R58) -/

def PoolSel.code : PoolSel → Nat
  | .pool => 0 | .poolS => 1 | .lo => 2 | .hi => 3 | .loS => 4 | .hiS => 5 | .up => 6
  | .b0 => 8 | .b1 => 9 | .b2 => 10 | .b3 => 11 | .zero => 16 | .one => 17
def poolOf : Nat → Option PoolSel
  | 0 => some .pool | 1 => some .poolS | 2 => some .lo | 3 => some .hi | 4 => some .loS | 5 => some .hiS
  | 6 => some .up | 8 => some .b0 | 9 => some .b1 | 10 => some .b2 | 11 => some .b3 | 16 => some .zero
  | 17 => some .one | _ => none

/-- The source named by SSP and SVAL (R57). -/
def decodeSrc (ssp : BitVec 2) (v : BitVec 8) : Except Reject Src :=
  if ssp = 0 then if nameSpace v.toNat = .un then .error .special else .ok (.reg v)
  else if ssp = 1 then
    if h : v.toNat < 12 then .ok (.latch ⟨v.toNat, h⟩)
    else if h : 16 ≤ v.toNat ∧ v.toNat < 24 then .ok (.head ⟨v.toNat - 16, by omega⟩)
    else .error .space
  else if ssp = 2 then .ok (.imm v)
  else match poolOf v.toNat with
    | some p => .ok (.pool p)
    | none => .error .selector

/-! ### Triggers (R92 to R103) -/

/-- Wraps a selector: an unlisted value is refused. -/
def sel {α : Type} (o : Option α) (k : α → Instr) : Except Reject Instr :=
  match o with
  | some a => .ok (k a)
  | none => .error .fsel

/-- FSEL 0 only. -/
def only0 (f : Nat) (i : Instr) : Except Reject Instr := if f = 0 then .ok i else .error .fsel

/-- Triggers of the integer units (R92, R93). -/
def decodeInt (u : IntUnit) (p f : Nat) (m : Mv) : Except Reject Instr :=
  match p with
  | 0x02 => sel (wdOf f) fun x => .add u x m
  | 0x03 => sel (wdOf f) fun x => .sub u x m
  | 0x04 => sel (wdOf f) fun x => .mul u x m
  | 0x05 => sel (swOf f) fun x => .mulh u x m
  | 0x06 => sel (swOf f) fun x => .div u x m
  | 0x07 => sel (swOf f) fun x => .rem u x m
  | 0x08 => sel (wdOf f) fun x => .and u x m
  | 0x09 => sel (wdOf f) fun x => .or u x m
  | 0x0A => sel (wdOf f) fun x => .xor u x m
  | 0x0B => sel (wdOf f) fun x => .andn u x m
  | 0x0C => sel (wdOf f) fun x => .shl u x m
  | 0x0D => sel (wdOf f) fun x => .shr u x m
  | 0x0E => sel (wdOf f) fun x => .sar u x m
  | 0x0F => sel (wdOf f) fun x => .rol u x m
  | 0x10 => sel (swOf f) fun x => .min u x m
  | 0x11 => sel (swOf f) fun x => .max u x m
  | 0x12 => sel (ccOf f) fun x => .cmp u x m
  | 0x13 => sel (wdOf f) fun x => .clz u x m
  | 0x14 => sel (wdOf f) fun x => .ctz u x m
  | 0x15 => sel (wdOf f) fun x => .popc u x m
  | 0x16 => sel (swOf f) fun x => .ext u x m
  | 0x17 => sel (wdOf f) fun x => .bswap u x m
  | 0x18 => sel (swOf f) fun x => .adds u x m
  | 0x19 => sel (swOf f) fun x => .subs u x m
  | 0x1A => sel (wdOf f) fun x => .pass u x m
  | _ => .error .port

/-- Triggers of br and ls (R94, R95). -/
def decodeBrLs (p f : Nat) (m : Mv) : Except Reject Instr :=
  match p with
  | 0x42 => sel (tFormOf f) fun x => .jmp x m
  | 0x43 => sel (tFormOf f) fun x => .bz x m
  | 0x44 => sel (tFormOf f) fun x => .bnz x m
  | 0x45 => sel (tFormOf f) fun x => .call x m
  | 0x46 => only0 f (.loop m)
  | 0x47 => only0 f (.lpop m)
  | 0x48 => only0 f (.lcnt m)
  | 0x49 => only0 f (.lset m)
  | 0x55 => sel (ldSzOf f) fun x => .ld x m
  | 0x56 => sel (szOf f) fun x => .st x m
  | 0x57 => match szOf (f / 4), scOf (f % 4) with
    | some z, some c => .ok (.lda z c m)
    | _, _ => .error .fsel
  | 0x58 => match szOf (f / 4), scOf (f % 4) with
    | some z, some c => .ok (.strl z c m)
    | _, _ => .error .fsel
  | 0x59 => match fkOf (f / 4), scOf (f % 4) with
    | some k, some c => .ok (.fence k c m)
    | _, _ => .error .fsel
  | 0x5A => sel (aoOf f) fun x => .atom x m
  | 0x5B => only0 f (.clrd m)
  | 0x5C => only0 f (.cms m)
  | 0x5D => only0 f (.lock m)
  | 0x5E => only0 f (.unlock m)
  | 0x5F => only0 f (.trn m)
  | 0x60 => sel (flagOf f) fun x => .pf x m
  | 0x61 => only0 f (.wb m)
  | 0x62 => only0 f (.inv m)
  | 0x63 => sel (hFieldOf f) fun x => .hinfo x m
  | _ => .error .port

/-- Triggers of vx (R97). -/
def decodeVx (p f : Nat) (m : Mv) : Except Reject Instr :=
  match p with
  | 0x77 => sel (vtOf f) fun x => .vadd x m
  | 0x78 => sel (vtOf f) fun x => .vsub x m
  | 0x79 => sel (vtOf f) fun x => .vmul x m
  | 0x7A => sel (ftOf f) fun x => .vfma x m
  | 0x7B => sel (ftOf f) fun x => .vfms x m
  | 0x7C => sel (ftOf f) fun x => .vfnma x m
  | 0x7D => sel (vtOf f) fun x => .vmin x m
  | 0x7E => sel (vtOf f) fun x => .vmax x m
  | 0x7F => sel (vaOf f) fun x => .vabs x m
  | 0x80 => sel (vaOf f) fun x => .vneg x m
  | 0x81 => only0 f (.vrcp m)
  | 0x82 => only0 f (.vrsqrt m)
  | 0x83 => only0 f (.vexp2 m)
  | 0x84 => only0 f (.vlog2 m)
  | 0x85 => only0 f (.vsqrt m)
  | 0x86 => sel (vtOf f) fun x => .vcmpeq x m
  | 0x87 => sel (vtOf f) fun x => .vcmplt x m
  | 0x88 => sel (vtOf f) fun x => .vcmple x m
  | 0x89 => sel (ftOf f) fun x => .vcmpun x m
  | 0x8A => sel (flagOf f) fun x => .vsel x m
  | 0x8B => only0 f (.vand m)
  | 0x8C => only0 f (.vor m)
  | 0x8D => only0 f (.vxor m)
  | 0x8E => only0 f (.vshl m)
  | 0x8F => sel (flagOf f) fun x => .vshr x m
  | 0x90 => sel (cvOf f) fun x => .vcvt x m
  | 0x91 => sel (flagOf f) fun x => .vnarrow x m
  | 0x92 => sel (flagOf f) fun x => .vwiden x m
  | 0x93 => sel (vtOf f) fun x => .vrsum x m
  | 0x94 => sel (vtOf f) fun x => .vrmax x m
  | 0x95 => sel (vtOf f) fun x => .vrmin x m
  | 0x96 => sel (flagOf f) fun x => .vbcast x m
  | 0x97 => only0 f (.vperm m)
  | 0x98 => sel (flagOf f) fun x => .vext x m
  | 0x99 => only0 f (.vins m)
  | 0x9A => only0 f (.vrot m)
  | 0x9B => only0 f (.vld m)
  | 0x9C => only0 f (.vst m)
  | 0x9D => sel (flagOf f) fun x => .vgth x m
  | 0x9E => sel (flagOf f) fun x => .vsct x m
  | 0x9F => sel (plOf f) fun x => .vpl x m
  | _ => .error .port

/-- Triggers of mx, sg, cp and ga (R98 to R100). -/
def decodeEngines (p f : Nat) (m : Mv) : Except Reject Instr :=
  match p with
  | 0xA8 => sel (flagOf f) fun x => .mld x m
  | 0xA9 => only0 f (.mst m)
  | 0xAA => if f = 8 then .ok (.mzero m) else sel (pwOf f) fun x => .mmac x m
  | 0xAB => sel (flagOf f) fun x => .mdrain x m
  | 0xAC => only0 f (.mcfg m)
  | 0xAD => only0 f (.mhad m)
  | 0xAE => only0 f (.mldc m)
  | 0xAF => only0 f (.mwait m)
  | 0xB3 => only0 f (.sgLim m)
  | 0xB4 => only0 f (.sgScl m)
  | 0xB5 => only0 f (.sgPass m)
  | 0xB6 => sel (sgFieldOf f) fun x => .sgStat x m
  | 0xB7 => only0 f (.sgWait m)
  | 0xBC => sel (flagOf f) fun x => .cpGo x m
  | 0xBD => only0 f (.cpFence m)
  | 0xBE => sel (flagOf f) fun x => .cpStat x m
  | 0xBF => only0 f (.cpUiv m)
  | 0xC3 => only0 f (.gaGth m)
  | 0xC4 => only0 f (.gaSct m)
  | 0xC5 => sel (flagOf f) fun x => .gaStat x m
  | 0xC6 => only0 f (.gaMode m)
  | _ => .error .port

/-- Triggers of qx, tk and sy (R101 to R103). -/
def decodeQts (p f : Nat) (m : Mv) : Except Reject Instr :=
  match p with
  | 0xD2 => sel (flagOf f) fun x => .qlvl x m
  | 0xD3 => sel (flagOf f) fun x => .qwait x m
  | 0xD4 => only0 f (.pseq m)
  | 0xD5 => only0 f (.ringacq m)
  | 0xD6 => only0 f (.ringrel m)
  | 0xD7 => sel (ringFieldOf f) fun x => .ringst x m
  | 0xD8 => only0 f (.hbar m)
  | 0xD9 => sel (dirOf f) fun x => .xmit x m
  | 0xDA => sel (dirOf f) fun x => .xsel x m
  | 0xDB => only0 f (.hend m)
  | 0xE2 => only0 f (.post m)
  | 0xE3 => only0 f (.yield m)
  | 0xE4 => only0 f (.wait m)
  | 0xE5 => only0 f (.endStrand m)
  | 0xE6 => only0 f (.arga m)
  | 0xE7 => only0 f (.jinit m)
  | 0xE8 => only0 f (.jdec m)
  | 0xE9 => only0 f (.hashu m)
  | 0xEA => only0 f (.snap m)
  | 0xEB => only0 f (.snfind m)
  | 0xEC => match f with
    | 0 => .ok (.snpin m)
    | 1 => .ok (.snrel m)
    | _ => .error .fsel
  | 0xED => sel (snFieldOf f) fun x => .snstat x m
  | 0xEE => match f with
    | 0 => .ok (.kvadv m)
    | 1 => .ok (.kvpin m)
    | _ => .error .fsel
  | 0xEF => sel (stFieldOf f) fun x => .strd x m
  | 0xF3 => only0 f (.capst m)
  | 0xF4 => only0 f (.tret m)
  | 0xF5 => only0 f (.uiret m)
  | 0xF6 => only0 f (.trap m)
  | 0xF7 => only0 f (.brk m)
  | 0xF8 => sel (domOf f) fun x => .clkdiv x m
  | 0xF9 => only0 f (.ecnt m)
  | 0xFA => only0 f (.ncsr m)
  | 0xFB => sel (flagOf f) fun x => .ncsw x m
  | 0xFC => only0 f (.sysr m)
  | 0xFD => only0 f (.sysw m)
  | 0xFE => sel (capFieldOf f) fun x => .capr x m
  | _ => .error .port

/-- The trigger at port 0x100 + p with an FSEL value. -/
def decodeTrigger (p f : Nat) (m : Mv) : Except Reject Instr :=
  if p < 0x20 then decodeInt .ia p f m
  else if p < 0x40 then decodeInt .ib (p - 0x20) f m
  else if p < 0x70 then decodeBrLs p f m
  else if p < 0xA0 then decodeVx p f m
  else if p < 0xC8 then decodeEngines p f m
  else decodeQts p f m

/-! ### Encoding of a move's fields (R56), and the checks of a decoded move -/

/-- SSP and SVAL of a source (R57, R58). -/
def Src.code : Src → BitVec 2 × BitVec 8
  | .reg n => (0, n)
  | .latch n => (1, BitVec.ofNat 8 n.val)
  | .head n => (1, BitVec.ofNat 8 (16 + n.val))
  | .imm v => (2, v)
  | .pool p => (3, BitVec.ofNat 8 p.code)

/-- The fields of a slot: source, K, port number and FSEL. -/
structure Fields where
  src : Src
  k : Bool
  port : Nat
  fsel : Nat
deriving DecidableEq, Repr

def IntUnit.base : IntUnit → Nat | .ia => 0x100 | .ib => 0x120

def boolCode (b : Bool) : Nat := if b then 1 else 0

/-- The fields of a trigger. -/
def trig (m : Mv) (port fsel : Nat) : Option Fields := some ⟨m.src, m.k, port, fsel⟩

/-- Fields of a trigger; none for a step that is no trigger (R92 to R103). -/
def Instr.trigger : Instr → Option Fields
  | .add u f m => trig m (u.base + 0x02) f.code
  | .sub u f m => trig m (u.base + 0x03) f.code
  | .mul u f m => trig m (u.base + 0x04) f.code
  | .mulh u f m => trig m (u.base + 0x05) f.code
  | .div u f m => trig m (u.base + 0x06) f.code
  | .rem u f m => trig m (u.base + 0x07) f.code
  | .and u f m => trig m (u.base + 0x08) f.code
  | .or u f m => trig m (u.base + 0x09) f.code
  | .xor u f m => trig m (u.base + 0x0A) f.code
  | .andn u f m => trig m (u.base + 0x0B) f.code
  | .shl u f m => trig m (u.base + 0x0C) f.code
  | .shr u f m => trig m (u.base + 0x0D) f.code
  | .sar u f m => trig m (u.base + 0x0E) f.code
  | .rol u f m => trig m (u.base + 0x0F) f.code
  | .min u f m => trig m (u.base + 0x10) f.code
  | .max u f m => trig m (u.base + 0x11) f.code
  | .cmp u f m => trig m (u.base + 0x12) f.code
  | .clz u f m => trig m (u.base + 0x13) f.code
  | .ctz u f m => trig m (u.base + 0x14) f.code
  | .popc u f m => trig m (u.base + 0x15) f.code
  | .ext u f m => trig m (u.base + 0x16) f.code
  | .bswap u f m => trig m (u.base + 0x17) f.code
  | .adds u f m => trig m (u.base + 0x18) f.code
  | .subs u f m => trig m (u.base + 0x19) f.code
  | .pass u f m => trig m (u.base + 0x1A) f.code
  | .jmp f m => trig m 0x142 f.code
  | .bz f m => trig m 0x143 f.code
  | .bnz f m => trig m 0x144 f.code
  | .call f m => trig m 0x145 f.code
  | .loop m => trig m 0x146 0
  | .lpop m => trig m 0x147 0
  | .lcnt m => trig m 0x148 0
  | .lset m => trig m 0x149 0
  | .ld z m => trig m 0x155 z.code
  | .st z m => trig m 0x156 z.code
  | .lda z c m => trig m 0x157 (4 * z.code + c.code)
  | .strl z c m => trig m 0x158 (4 * z.code + c.code)
  | .fence k c m => trig m 0x159 (4 * k.code + c.code)
  | .atom o m => trig m 0x15A o.code
  | .clrd m => trig m 0x15B 0
  | .cms m => trig m 0x15C 0
  | .lock m => trig m 0x15D 0
  | .unlock m => trig m 0x15E 0
  | .trn m => trig m 0x15F 0
  | .pf l m => trig m 0x160 (boolCode l)
  | .wb m => trig m 0x161 0
  | .inv m => trig m 0x162 0
  | .hinfo f m => trig m 0x163 f.code
  | .vadd t m => trig m 0x177 t.code
  | .vsub t m => trig m 0x178 t.code
  | .vmul t m => trig m 0x179 t.code
  | .vfma t m => trig m 0x17A t.code
  | .vfms t m => trig m 0x17B t.code
  | .vfnma t m => trig m 0x17C t.code
  | .vmin t m => trig m 0x17D t.code
  | .vmax t m => trig m 0x17E t.code
  | .vabs t m => trig m 0x17F t.code
  | .vneg t m => trig m 0x180 t.code
  | .vrcp m => trig m 0x181 0
  | .vrsqrt m => trig m 0x182 0
  | .vexp2 m => trig m 0x183 0
  | .vlog2 m => trig m 0x184 0
  | .vsqrt m => trig m 0x185 0
  | .vcmpeq t m => trig m 0x186 t.code
  | .vcmplt t m => trig m 0x187 t.code
  | .vcmple t m => trig m 0x188 t.code
  | .vcmpun t m => trig m 0x189 t.code
  | .vsel w m => trig m 0x18A (boolCode w)
  | .vand m => trig m 0x18B 0
  | .vor m => trig m 0x18C 0
  | .vxor m => trig m 0x18D 0
  | .vshl m => trig m 0x18E 0
  | .vshr a m => trig m 0x18F (boolCode a)
  | .vcvt c m => trig m 0x190 c.code
  | .vnarrow k m => trig m 0x191 (boolCode k)
  | .vwiden k m => trig m 0x192 (boolCode k)
  | .vrsum t m => trig m 0x193 t.code
  | .vrmax t m => trig m 0x194 t.code
  | .vrmin t m => trig m 0x195 t.code
  | .vbcast w m => trig m 0x196 (boolCode w)
  | .vperm m => trig m 0x197 0
  | .vext s m => trig m 0x198 (boolCode s)
  | .vins m => trig m 0x199 0
  | .vrot m => trig m 0x19A 0
  | .vld m => trig m 0x19B 0
  | .vst m => trig m 0x19C 0
  | .vgth x m => trig m 0x19D (boolCode x)
  | .vsct x m => trig m 0x19E (boolCode x)
  | .vpl o m => trig m 0x19F o.code
  | .mld r m => trig m 0x1A8 (boolCode r)
  | .mst m => trig m 0x1A9 0
  | .mmac p m => trig m 0x1AA p.code
  | .mzero m => trig m 0x1AA 8
  | .mdrain q m => trig m 0x1AB (boolCode q)
  | .mcfg m => trig m 0x1AC 0
  | .mhad m => trig m 0x1AD 0
  | .mldc m => trig m 0x1AE 0
  | .mwait m => trig m 0x1AF 0
  | .sgLim m => trig m 0x1B3 0
  | .sgScl m => trig m 0x1B4 0
  | .sgPass m => trig m 0x1B5 0
  | .sgStat f m => trig m 0x1B6 f.code
  | .sgWait m => trig m 0x1B7 0
  | .cpGo o m => trig m 0x1BC (boolCode o)
  | .cpFence m => trig m 0x1BD 0
  | .cpStat w m => trig m 0x1BE (boolCode w)
  | .cpUiv m => trig m 0x1BF 0
  | .gaGth m => trig m 0x1C3 0
  | .gaSct m => trig m 0x1C4 0
  | .gaStat w m => trig m 0x1C5 (boolCode w)
  | .gaMode m => trig m 0x1C6 0
  | .qlvl f m => trig m 0x1D2 (boolCode f)
  | .qwait r m => trig m 0x1D3 (boolCode r)
  | .pseq m => trig m 0x1D4 0
  | .ringacq m => trig m 0x1D5 0
  | .ringrel m => trig m 0x1D6 0
  | .ringst f m => trig m 0x1D7 f.code
  | .hbar m => trig m 0x1D8 0
  | .xmit d m => trig m 0x1D9 d.code
  | .xsel d m => trig m 0x1DA d.code
  | .hend m => trig m 0x1DB 0
  | .post m => trig m 0x1E2 0
  | .yield m => trig m 0x1E3 0
  | .wait m => trig m 0x1E4 0
  | .endStrand m => trig m 0x1E5 0
  | .arga m => trig m 0x1E6 0
  | .jinit m => trig m 0x1E7 0
  | .jdec m => trig m 0x1E8 0
  | .hashu m => trig m 0x1E9 0
  | .snap m => trig m 0x1EA 0
  | .snfind m => trig m 0x1EB 0
  | .snpin m => trig m 0x1EC 0
  | .snrel m => trig m 0x1EC 1
  | .snstat f m => trig m 0x1ED f.code
  | .kvadv m => trig m 0x1EE 0
  | .kvpin m => trig m 0x1EE 1
  | .strd f m => trig m 0x1EF f.code
  | .capst m => trig m 0x1F3 0
  | .tret m => trig m 0x1F4 0
  | .uiret m => trig m 0x1F5 0
  | .trap m => trig m 0x1F6 0
  | .brk m => trig m 0x1F7 0
  | .clkdiv d m => trig m 0x1F8 d.code
  | .ecnt m => trig m 0x1F9 0
  | .ncsr m => trig m 0x1FA 0
  | .ncsw c m => trig m 0x1FB (boolCode c)
  | .sysr m => trig m 0x1FC 0
  | .sysw m => trig m 0x1FD 0
  | .capr f m => trig m 0x1FE f.code
  | _ => none

/-- A source that names a group: aligned and within its space (R18). -/
def srcGroupOk (s : Src) (n : Nat) : Bool :=
  match s with
  | .reg r => groupOk r.toNat n
  | _ => true

/-- Checks of a move that its fields alone decide; the first reason to refuse it (R59, R60, R63, R86). -/
def moveCheck (src : Src) (dst : RegName) : Option Reject :=
  if nameSpace dst.toNat = .sp ∨ nameSpace dst.toNat = .un then some .destination
  else match src.groupTo dst with
    | none => some .sourceClass
    | some (a, b) => if srcGroupOk src a && groupOk dst.toNat b then none else some .group

/-- The same for an operand or `.to` port; vx.p reads a group of two (R130). -/
def portCheck (src : Src) (p : Port) : Option Reject :=
  if !p.accept.takes src.cls then some .sourceClass
  else if p = .vxP ∧ !srcGroupOk src 2 then some .group
  else none

/-- The same for a trigger. -/
def triggerCheck (t : Fields) : Option Reject :=
  if !(triggerAccept t.port).takes t.src.cls then some .sourceClass
  else if t.k && keepless t.port then some .keep
  else none

/-- Why the encoding of a move is refused; none when it is legal or the step is no move. -/
def Instr.check (i : Instr) : Option Reject :=
  match i with
  | .moveToRegister s d => moveCheck s d
  | .operandPortWrite s p => portCheck s p
  | .push s _ => if s.cls = .v then none else some .sourceClass
  | i => match i.trigger with
    | some t => triggerCheck t
    | none => none

/-- The move that a slot's fields spell, before its checks. -/
def parseSlot (ssp : BitVec 2) (sval : BitVec 8) (k : Bool) (dport fsel : Nat) : Except Reject Instr :=
  if dport = 0x1FF then .ok (.nullMove ssp sval k (BitVec.ofNat 4 fsel))
  else match decodeSrc ssp sval with
    | .error r => .error r
    | .ok src =>
      if dport < 0x100 then
        if k then .error .keep else if fsel ≠ 0 then .error .fsel
        else .ok (.moveToRegister src (BitVec.ofNat 8 dport))
      else if h : 0x1C8 ≤ dport ∧ dport ≤ 0x1CF then
        if k then .error .keep else if fsel ≠ 0 then .error .fsel
        else .ok (.push src ⟨dport - 0x1C8, by omega⟩)
      else match portOf dport with
        | some p =>
          if k then .error .keep else if fsel ≠ 0 then .error .fsel else .ok (.operandPortWrite src p)
        | none => decodeTrigger (dport - 0x100) fsel ⟨src, k⟩

/-- The 24 bits of a slot (R56). -/
def packSlot (ssp : BitVec 2) (sval : BitVec 8) (k : Bool) (dport fsel : Nat) : BitVec 24 :=
  ((((ssp ++ sval) ++ (BitVec.ofBool k)) ++ (BitVec.ofNat 9 dport)) ++ (BitVec.ofNat 4 fsel) : BitVec 24)

/-- Decodes a slot (R56 to R63). -/
def decodeSlot (w : BitVec 24) : Except Reject Instr :=
  match parseSlot (w.extractLsb' 22 2) (w.extractLsb' 14 8) (w.getLsbD 13)
      (w.extractLsb' 4 9).toNat (w.extractLsb' 0 4).toNat with
  | .error r => .error r
  | .ok i => match i.check with
    | some r => .error r
    | none => .ok i

/-! ### Bundles (R49 to R54) -/

/-- Header of a bundle (R49). -/
def bundleHeader (b : BitVec 256) : BitVec 64 := b.extractLsb' 0 64

/-- Slot k of a bundle (R49). -/
def bundleSlot (b : BitVec 256) (k : Nat) : BitVec 24 := b.extractLsb' (64 + 24 * k) 24

/-- KIND, POP and POOL of a header (R50). -/
def hdrKind (h : BitVec 64) : Nat := (h.extractLsb' 52 4).toNat
def hdrPop (h : BitVec 64) : BitVec 8 := h.extractLsb' 56 8
def hdrPool (h : BitVec 64) : BitVec 32 := h.extractLsb' 0 32

/-- Number of valid main-file read ports allotted to slot k (R50, R52). -/
def portsOf (h : BitVec 64) (k : Nat) : Nat :=
  ((List.range 4).filter fun i => h.getLsbD (36 + i) && (h.extractLsb' (40 + 3 * i) 3).toNat == k).length

/-- The source of a move, none for a null move and for steps that are no moves. -/
def Instr.src? (i : Instr) : Option Src :=
  match i with
  | .moveToRegister s _ => some s
  | .operandPortWrite s _ => some s
  | .push s _ => some s
  | i => i.trigger.map Fields.src

/-- How many registers the source of a move reads (R18, R60, R130). -/
def Instr.srcCount (i : Instr) : Nat :=
  match i with
  | .moveToRegister s d => match s.groupTo d with | some (a, _) => a | none => 1
  | .operandPortWrite _ .vxP => 2
  | _ => 1

/-- Registers of a space that a move reads. -/
def Instr.reads (i : Instr) (space : RSpace) : Nat :=
  match i.src? with
  | some (.reg n) => if nameSpace n.toNat = space then i.srcCount else 0
  | _ => 0

/-- The unit a move triggers (R64). -/
def Instr.unit? (i : Instr) : Option UnitName := i.trigger.map fun t => unitOf t.port

/-- Whether a move names x0 to x7 as source or destination (R19). -/
def Instr.namesX (i : Instr) : Bool :=
  (match i with
    | .moveToRegister _ d => decide (nameSpace d.toNat = .x)
    | _ => false) ||
  (match i.src? with
    | some (.reg n) => decide (nameSpace n.toNat = .x)
    | _ => false)

/-- A slot to the right of slot k holds a move of which f is true. -/
def laterMove (b : BitVec 256) (k : Nat) (f : Instr → Bool) : Bool :=
  (List.range 8).any fun j => decide (k < j) &&
    (let w := bundleSlot b j
    match parseSlot (w.extractLsb' 22 2) (w.extractLsb' 14 8) (w.getLsbD 13)
        (w.extractLsb' 4 9).toNat (w.extractLsb' 0 4).toNat with
    | .ok i => f i
    | .error _ => false)

/-- Checks of slot k within its bundle, given the moves before it: read ports, o reads, triggers of one
unit, and x registers outside a handler (R52, R53, R64, R19). Too many o reads, and triggers of one unit,
are refused in the rightmost slot concerned (R86). -/
def slotCheck (b : BitVec 256) (inUi : Bool) (before : List Instr) (k : Nat) (i : Instr) : Option Reject :=
  if portsOf (bundleHeader b) k ≠ i.reads .g then some .readPorts
  else if 8 < (before.map (·.reads .o)).sum + i.reads .o ∧ i.reads .o ≠ 0
      ∧ laterMove b k (fun j => j.reads .o != 0) = false then some .operandReads
  else if i.unit?.isSome && before.any (fun j => j.unit? == i.unit?)
      && !laterMove b k (fun j => j.unit? == i.unit?) then some .twoTriggers
  else if i.namesX && !inUi then some .handler
  else none

/-- Port number slot k of a bundle names (R56). -/
def slotPort (b : BitVec 256) (k : Nat) : Nat := ((bundleSlot b k).extractLsb' 4 9).toNat

/-- Whether slot k of a bundle triggers the branch and loop unit. -/
def isBrSlot (b : BitVec 256) (k : Nat) : Bool := decide (0x142 ≤ slotPort b k ∧ slotPort b k ≤ 0x149)

/-- TRET beside a br trigger, beside UIRET or in a loop close, and UIRET beside a br trigger, are refused:
the first in the TRET slot, the second in the rightmost of the slots concerned (R182, R238). -/
def controlCheck (b : BitVec 256) (k : Nat) : Option Reject :=
  let br := (List.range 8).any (isBrSlot b)
  let ui := (List.range 8).any fun j => slotPort b j == 0x1F5
  let later := (List.range 8).any fun j => decide (k < j) && (isBrSlot b j || slotPort b j == 0x1F5)
  if slotPort b k = 0x1F4 ∧ (br ∨ ui ∨ hdrKind (bundleHeader b) = 3 ∨ hdrKind (bundleHeader b) = 4)
    then some .control
  else if (slotPort b k = 0x1F5 ∨ isBrSlot b k) ∧ br ∧ ui ∧ !later then some .control
  else none

/-- Slots k to 7 decoded in order; the first slot that is refused, with its reason (R66). A refusal
that is ILLENC goes before one that is ILLOPD in the same slot. -/
def decodeSlots (b : BitVec 256) (inUi : Bool) : Nat → Nat → List Instr → Except (Nat × Reject) (List Instr)
  | 0, _, acc => .ok acc
  | n + 1, k, acc =>
    let w := bundleSlot b k
    match parseSlot (w.extractLsb' 22 2) (w.extractLsb' 14 8) (w.getLsbD 13)
        (w.extractLsb' 4 9).toNat (w.extractLsb' 0 4).toNat with
    | .error r => .error (k, r)
    | .ok i =>
      match i.check, (controlCheck b k).or (slotCheck b inUi acc k i) with
      | some r, none => .error (k, r)
      | none, some r => .error (k, r)
      | some r, some q => .error (k, if r.operand then q else r)
      | none, none => decodeSlots b inUi n (k + 1) (acc ++ [i])

/-- The eight moves of a bundle, or the slot and reason of its refusal (R51 to R64, R86). -/
def decodeBundle (b : BitVec 256) (inUi : Bool) : Except (Nat × Reject) (List Instr) :=
  if (bundleHeader b).extractLsb' 32 4 ≠ 0 then .error (0, .header)
  else if 5 < hdrKind (bundleHeader b) then .error (0, .kind)
  else decodeSlots b inUi 8 0 []

/-! ### The table's words and the encoder -/

/-- Decodes 24 bits as a slot, 256 as a bundle; other lengths are refused. -/
def decodeBits (nbits : Nat) (w : Nat) : Except Reject Instr :=
  if nbits ≤ 24 then decodeSlot (BitVec.ofNat 24 w)
  else if nbits ≤ 256 then .ok (.bundleExecute (BitVec.ofNat 256 w))
  else .error .length

/-- What the decoder reads from an instruction whose bits are w (the host's form). -/
def decodeTableWord (nbits w : Nat) : Option Instr :=
  match decodeBits nbits w with
  | .ok i => some i
  | .error _ => none

/-- The 24 bits of a move; none for a step that is no move (R56). -/
def encodeSlot (i : Instr) : Option (BitVec 24) :=
  match i with
  | .nullMove ssp v k f => some (packSlot ssp v k 0x1FF f.toNat)
  | .moveToRegister s d => some (packSlot s.code.1 s.code.2 false d.toNat 0)
  | .operandPortWrite s p => some (packSlot s.code.1 s.code.2 false p.num 0)
  | .push s w => some (packSlot s.code.1 s.code.2 false (0x1C8 + w.val) 0)
  | i => i.trigger.map fun t => packSlot t.src.code.1 t.src.code.2 t.k t.port t.fsel

/-- The words of an instruction, as its length in bits and its bits; events have none. -/
def encode (i : Instr) : Option (Nat × Nat) :=
  match i with
  | .bundleExecute b => some (256, b.toNat)
  | i => (encodeSlot i).map fun w => (24, w.toNat)

/-- The absent slot's null move (R72). -/
def absentSlot : BitVec 24 := 0xC41FF0#24

/-- A bundle of a header and eight slots (R49). -/
def packBundle (h : BitVec 64) (s : Nat → BitVec 24) : BitVec 256 :=
  BitVec.ofNat 256 (h.toNat + 2 ^ 64 * ((s 0).toNat + 2 ^ 24 * ((s 1).toNat + 2 ^ 24 * ((s 2).toNat
    + 2 ^ 24 * ((s 3).toNat + 2 ^ 24 * ((s 4).toNat + 2 ^ 24 * ((s 5).toNat + 2 ^ 24 * ((s 6).toNat
    + 2 ^ 24 * (s 7).toNat))))))))

end Sys2Proof
end

