-- ==== Sys2Proof/Machine/Operands.lean ====
section
/-! DEFINITION. Operand forms: register groups, header-pool values, branch targets and handles. -/

namespace Sys2Proof.Machine

/-- The low 64 bits of a moved value. -/
def sval (v : V512) : Nat := v.toNat % 2 ^ 64

/-! ### Registers (R17, R18, R25, R60) -/

/-- Physical name of a register name under the rotating bases (R25). -/
def physName (vrb prb n : Nat) : Nat :=
  if 0x70 ≤ n ∧ n < 0x90 then 0x70 + (n - 0x70 + vrb) % 32
  else if 0x98 ≤ n ∧ n < 0xA0 then 0x98 + (n - 0x98 + prb) % 8
  else n

/-- The value of a physical register; a tile or accumulator reads as its name (R98). -/
def RegFile.read (r : RegFile) (n : Nat) : Nat :=
  let i := nameIndex n
  match nameSpace n with
  | .g => (r.g[i % 64]'(Nat.mod_lt _ (by decide))).toNat
  | .o => (r.o[i % 16]'(Nat.mod_lt _ (by decide))).toNat
  | .v => (r.v[i % 64]'(Nat.mod_lt _ (by decide))).toNat
  | .p => (r.p[i % 16]'(Nat.mod_lt _ (by decide))).toNat
  | .h => (r.h[i % 16]'(Nat.mod_lt _ (by decide))).toNat
  | .c => (r.c[i % 8]'(Nat.mod_lt _ (by decide))).toNat
  | .f => (r.f[i % 16]'(Nat.mod_lt _ (by decide))).toNat
  | .z => (r.z[i % 8]'(Nat.mod_lt _ (by decide))).toNat
  | .x => (r.x[i % 8]'(Nat.mod_lt _ (by decide))).toNat
  | .m | .a | .sp | .un => n

/-- A physical register written. -/
def RegFile.write (r : RegFile) (n v : Nat) : RegFile :=
  let i := nameIndex n
  match nameSpace n with
  | .g => { r with g := r.g.set (i % 64) (BitVec.ofNat 64 v) (Nat.mod_lt _ (by decide)) }
  | .o => { r with o := r.o.set (i % 16) (BitVec.ofNat 64 v) (Nat.mod_lt _ (by decide)) }
  | .v => { r with v := r.v.set (i % 64) (BitVec.ofNat 512 v) (Nat.mod_lt _ (by decide)) }
  | .p => { r with p := r.p.set (i % 16) (BitVec.ofNat 16 v) (Nat.mod_lt _ (by decide)) }
  | .h => { r with h := r.h.set (i % 16) (BitVec.ofNat 128 v) (Nat.mod_lt _ (by decide)) }
  | .c => { r with c := r.c.set (i % 8) (BitVec.ofNat 512 v) (Nat.mod_lt _ (by decide)) }
  | .f => { r with f := r.f.set (i % 16) (BitVec.ofNat 32 v) (Nat.mod_lt _ (by decide)) }
  | .z => { r with z := r.z.set (i % 8) (BitVec.ofNat 32 v) (Nat.mod_lt _ (by decide)) }
  | .x => { r with x := r.x.set (i % 8) (BitVec.ofNat 64 v) (Nat.mod_lt _ (by decide)) }
  | .m | .a | .sp | .un => r

/-- The physical names of a group of n registers (R18). -/
def groupNames (vrb prb name n : Nat) : List Nat := (upto n).map fun i => physName vrb prb (name + i)

/-- A group's value, the first register lowest (R18). -/
def RegFile.readGroup (r : RegFile) (w : Nat) : List Nat → Nat
  | [] => 0
  | n :: l => r.read n + 2 ^ w * RegFile.readGroup r w l

/-- A group written, the first register from the lowest bits (R18). -/
def RegFile.writeGroup (r : RegFile) (w : Nat) : List Nat → Nat → RegFile
  | [], _ => r
  | n :: l, v => RegFile.writeGroup (r.write n (v % 2 ^ w)) w l (v / 2 ^ w)

/-- Registers a result of a class takes at a destination name; none where R60 or R89 refuse it. -/
def destCount (cls : ResClass) (name : Nat) : Option Nat :=
  match cls with
  | .s => match moveGroups .s false (nameSpace name) with
    | some (_, n) => if groupOk name n then some n else none
    | none => none
  | .v => match moveGroups .v false (nameSpace name) with
    | some (_, n) => some n
    | none => none
  | .p => if nameSpace name = .p then some 1 else none
  | .p2 => if nameSpace name = .p ∧ groupOk name 2 then some 2 else none
  | .h => if nameSpace name = .h then some 1 else none
  | .latch => none

/-! ### Header pool and branch targets -/

/-- A value of the header pool (R58). -/
def poolValue (p : PoolSel) (pool : Nat) : Nat :=
  match p with
  | .pool => pool % 2 ^ 32
  | .poolS => wrap (sx pool 32) 64
  | .lo => bits pool 15 0
  | .hi => bits pool 31 16
  | .loS => wrap (sx (bits pool 15 0) 16) 64
  | .hiS => wrap (sx (bits pool 31 16) 16) 64
  | .up => pool % 2 ^ 32 * 2 ^ 32
  | .b0 => bits pool 7 0
  | .b1 => bits pool 15 8
  | .b2 => bits pool 23 16
  | .b3 => bits pool 31 24
  | .zero => 0
  | .one => 1

/-- The `abs` form of a bundle's place (R94). -/
def Target.abs (t : Target) : W64 := BitVec.ofNat 64 (t.seg.toNat + 2 ^ 56 * t.bix.toNat)

/-- The place an `abs` value names (R94). -/
def Target.ofAbs (v : Nat) : Target := ⟨BitVec.ofNat 56 v, BitVec.ofNat 7 (v / 2 ^ 56)⟩

/-- A value that is no `abs` target: bit 63, bits [4:0], or address 0 (R110). -/
def badAbs (v : Nat) : Bool := bit v 63 || v % 32 != 0 || v % 2 ^ 56 == 0

/-! ### Handles (R155, R158, R160) -/

/-- Log2 of the size of a page (R155). -/
def pageBits (psz : Nat) : Nat := if psz = 1 then 25 else if psz = 2 then 31 else 19

abbrev Handle := BitVec 128

def Handle.v (h : Handle) : Bool := h.getLsbD 127
def Handle.psz (h : Handle) : Nat := bits h.toNat 123 122
def Handle.pr (h : Handle) : Bool := h.getLsbD 121
def Handle.pw (h : Handle) : Bool := h.getLsbD 120
def Handle.pa (h : Handle) : Bool := h.getLsbD 119
def Handle.ctx (h : Handle) : Nat := bits h.toNat 115 112
def Handle.vbase (h : Handle) : Nat := bits h.toNat 100 64 * 2 ^ 19
def Handle.pbase (h : Handle) : Nat := bits h.toNat 51 0
def Handle.size (h : Handle) : Nat := 2 ^ pageBits h.psz
def Handle.isSpad (h : Handle) : Bool := h.psz == 3

/-- A handle from its fields (R155). -/
def mkHandle (psz : Nat) (pr pw pa : Bool) (x vbase pbase : Nat) : Handle :=
  BitVec.ofNat 128 (2 ^ 127 + psz % 4 * 2 ^ 122 + boolCode pr * 2 ^ 121 + boolCode pw * 2 ^ 120
    + boolCode pa * 2 ^ 119 + x % 16 * 2 ^ 112 + (vbase / 2 ^ 19) % 2 ^ 37 * 2 ^ 64 + pbase % 2 ^ 52)

/-- The scratchpad handle of a context (R158). -/
def spadHandle (x : CtxId) : Handle := mkHandle 3 true true false x.toNat (2 ^ 56 - 2 ^ 19) 0

/-- A handle with V cleared (R156, R159). -/
def Handle.invalid (h : Handle) : Handle := h &&& ~~~(1#128 <<< 127)

/-- Permission an access needs (R160). -/
inductive Perm where | r | w | a | none
deriving DecidableEq, Repr

/-- The checks of a handle's use, n bytes at off (R160). -/
def checkHandle (h : Handle) (x : CtxId) (off n : Nat) (p : Perm) : Option Cause :=
  if !h.v || h.ctx != x.toNat then some .hstale
  else if off % n ≠ 0 then some .align
  else if off + n > h.size then some .hbound
  else match p with
    | .r => if h.pr then none else some .priv
    | .w => if h.pw then none else some .priv
    | .a => if h.pa then none else some .priv
    | .none => none

/-- The virtual address an access through a handle names (R166). -/
def Handle.va (h : Handle) (off : Nat) : W64 := BitVec.ofNat 64 (h.vbase + off)

end Sys2Proof.Machine
end

