-- ==== Sys2Proof/Machine/Ops.lean ====
section
/-! DEFINITION. The operations every instruction shares: access to the parts of the state, time, events,
registers, results in flight, energy, address translation, faults and taking a trap. -/

namespace Sys2Proof.Machine

/-! ### Parts of the state -/

/-- Core c. -/
def State.core (s : State) (c : CoreId) : Core := s.cores[c.toNat]'(by have := c.isLt; omega)

def State.setCore (s : State) (c : CoreId) (k : Core) : State :=
  { s with cores := s.cores.set c.toNat k (by have := c.isLt; omega) }

def State.onCore (s : State) (c : CoreId) (f : Core → Core) : State := s.setCore c (f (s.core c))

/-- The core that executes. -/
def State.me (s : State) : Core := s.core s.cur

def State.onMe (s : State) (f : Core → Core) : State := s.onCore s.cur f

def State.cluster (s : State) (k : ClusterId) : Cluster := s.clusters[k.toNat]'(by have := k.isLt; omega)

def State.onCluster (s : State) (k : ClusterId) (f : Cluster → Cluster) : State :=
  { s with clusters := s.clusters.set k.toNat (f (s.cluster k)) (by have := k.isLt; omega) }

def State.ctx (s : State) (x : CtxId) : Ctx := s.ctxs[x.toNat]'(by have := x.isLt; omega)

def State.onCtx (s : State) (x : CtxId) (f : Ctx → Ctx) : State :=
  { s with ctxs := s.ctxs.set x.toNat (f (s.ctx x)) (by have := x.isLt; omega) }

/-- What context x keeps on a core. -/
def Core.pctxOf (k : Core) (x : CtxId) : PerCtx := k.pc'[x.toNat]'(by have := x.isLt; omega)

def Core.onPctxOf (k : Core) (x : CtxId) (f : PerCtx → PerCtx) : Core :=
  { k with pc' := k.pc'.set x.toNat (f (k.pctxOf x)) (by have := x.isLt; omega) }

/-- What the running context keeps on the core. -/
def Core.pctx (k : Core) : PerCtx := k.pctxOf k.ctx

def Core.onPctx (k : Core) (f : PerCtx → PerCtx) : Core := k.onPctxOf k.ctx f

/-- A supervisor strand runs (R244). -/
def Core.sup (k : Core) : Bool := k.ctx == 0

/-! ### Time (R6, R27, R373): quanta of 1/27 ns -/

/-- Length of a control cycle (R6). -/
def Core.cl (k : Core) : Nat := 5 * k.pctx.divCtl

/-- Control cycles that n cycles of a domain of divisor d take (R132, R184). -/
def Core.cyclesOf (k : Core) (d n : Nat) : Nat := ceilDiv (n * d) k.pctx.divCtl

/-- The global timer at a time, in ns (R373, R374). DESIGN CHOICE (log 47): past 2^64 - 1, of which the spec states
nothing, the count goes on; comparisons see it whole, and stamps and registers its low 64 bits. -/
def Timer.at (t : Timer) (now : Nat) : Nat :=
  (t.base + ((now - t.since : Nat) : Int) * (100000000 + t.trim) / (27 * 100000000 : Int)).toNat

/-- The global timer now. -/
def State.gt (s : State) : Nat := s.die.timer.at s.now

/-- A step scheduled after those of its time (log 3). -/
def insEvent (t : Nat) (i : Instr) : List (Nat × Instr) → List (Nat × Instr)
  | [] => [(t, i)]
  | (u, j) :: r => if t < u then (t, i) :: (u, j) :: r else (u, j) :: insEvent t i r

def State.schedule (s : State) (t : Nat) (i : Instr) : State := { s with events := insEvent t i s.events }

/-- The next open delay: that of the delay list, or the guide figure when none is listed (log 3). -/
def State.takeDelay (s : State) (guide : Nat) : Nat × State :=
  match s.delays with
  | [] => (guide, s)
  | d :: r => (d, { s with delays := r })

/-- A value the manual leaves open (log 5). -/
def State.takeFree (s : State) : Nat × State := (Config.freeNat s.free, { s with free := s.free + 1 })

/-- A fresh identifier. -/
def State.takeId (s : State) : Nat × State := (s.nextId, { s with nextId := s.nextId + 1 })

/-! ### Events, energy (R256, R258, R290, R305, R307) -/

/-- An event record of 32 bytes (R305), its payload as 16 little-endian bytes. -/
def eventRecord (src eseq : Nat) (x : CtxId) (code stamp pay : Nat) : Nat :=
  (code % 256 + 2 ^ 8 * x.toNat + 2 ^ 16 * (eseq % 2 ^ 16) + 2 ^ 32 * (src % 2 ^ 16))
    + 2 ^ 64 * (stamp % 2 ^ 64) + 2 ^ 128 * (pay % 2 ^ 128)

/-- Writes an event for a context, or counts it lost (R290). -/
def State.postEvent (s : State) (x : CtxId) (code src pay : Nat) : State :=
  let c := s.ctx x
  let n := Tbl.get 0 c.eseq src
  let c := { c with eseq := Tbl.put 0 c.eseq src ((n + 1) % 2 ^ 16) }
  if c.evb ≠ 0 ∧ (c.evt - c.evh).toNat < 2 ^ c.evn.toNat then
    let a := c.evb.toNat + 32 * (c.evt.toNat % 2 ^ c.evn.toNat)
    { s.onCtx x (fun _ => { c with evt := c.evt + 1 }) with
      mem := s.mem.write a 32 (eventRecord src n x code s.gt pay) }
  else s.onCtx x (fun _ => { c with evlost := c.evlost + 1 })

/-- The class weight CWn (R256). -/
def State.weight (s : State) (n : Fin 16) : Nat := (s.die.cw[n.val]).toNat

/-- Charges w units to the counter of the context a core runs; saturation raises ESAT once (R258). -/
def State.chargeUnits (s : State) (c : CoreId) (w : Nat) : State :=
  let k := s.core c
  let p := k.pctx
  if p.satf then s
  else if p.ec.toNat + w < 2 ^ 56 then
    s.setCore c (k.onPctx fun p => { p with ec := BitVec.ofNat 56 (p.ec.toNat + w) })
  else
    (s.setCore c (k.onPctx fun p => { p with ec := BitVec.allOnes 56, satf := true })).postEvent
      k.ctx 0x84 0x0300 c.toNat

/-! ### Registers of a core -/

/-- n registers from a name written; poison and race marks of them clear (R166). -/
def Core.writeRegs (k : Core) (vrb prb name n v : Nat) : Core :=
  let l := groupNames vrb prb name n
  { k with
    rf := k.rf.writeGroup (nameSpace name).width l v
    bad := k.bad.filter fun b => !l.contains b.reg.toNat }

/-- A half of the loop buffer as the running context sees it: another context's segment is none of its own (R75). -/
def Core.half (k : Core) (h : Fin 2) : Half := if k.halfCtx[h.val] = k.ctx then k.halves[h.val] else .empty

/-- Control cycles pass on a core that does not execute until a time: its cycle counter runs on (R27). -/
def Core.passTo (k : Core) (t : Nat) : Core :=
  if t ≤ k.time then k else { k with time := t, ccyc := k.ccyc + BitVec.ofNat 64 ((t - k.time) / k.cl) }

/-! ### Results in flight (R23, R109, R132, R165) -/

/-- Number of registers of a flight's destination. -/
def Flight.names (f : Flight) : List Nat :=
  match f.dest with
  | none => []
  | some d => groupNames f.vrb f.prb d.toNat ((destCount f.cls d.toNat).getD 0)

/-- The latch a flight writes (R22, R97, R131). -/
def Flight.latchNo (f : Flight) : Fin 12 :=
  match f.unit with
  | .ia => 0 | .ib => 1 | .ls => 2 | .br => 3
  | .vx => match f.cls with | .v => 4 | _ => 5
  | .qx => 9 | .tk => 10 | .sy => 11

/-- What the latch receives: a handle gives its low word (R89). -/
def Flight.latchValue (f : Flight) : V512 :=
  match f.cls with
  | .h => BitVec.ofNat 512 (f.value.toNat % 2 ^ 64)
  | _ => f.value

/-- An operation that the bundle in execution has started itself. -/
def Core.ofBundle (k : Core) (id : Nat) : Bool := match k.bs.since with | some n => decide (n ≤ id) | none => false

/-- A physical register awaits a result (R23). -/
def Core.busyReg (k : Core) (n : Nat) : Bool := k.fl.any fun f => f.names.contains n

/-- A latch awaits a result (R23); a handler has latches of its own (R24). -/
def Core.busyLatch (k : Core) (n : Fin 12) : Bool := k.fl.any fun f => f.latchNo == n && f.inUi == k.ui.active

/-- Sticky flags set in the NCS of the running context (R32). -/
def Core.setFlags (k : Core) (f : Flags) : Core :=
  k.onPctx fun p => { p with ncs := ncsRaise p.ncs f }

/-- A latch takes a delivered result: that of the set in force at its trigger (R24, R180). -/
def Core.landLatch (k : Core) (inUi : Bool) (n : Fin 12) (v : V512) : Core :=
  if inUi == k.ui.active then { k with lat := k.lat.set n.val (some v) }
  else if inUi then k
  else { k with ui := { k.ui with banked := k.ui.banked.set n.val (some v) } }

/-- The name of no register, under which a faulty reply without a destination waits to be reported (R166, log 40). -/
def noReg : RegName := 0xFF

/-- A result of ls lands: its latch takes that of the youngest trigger of its set, once none of the set is in flight
(R24, R165, R180). -/
def Core.landLs (k : Core) (f : Flight) : Core :=
  let k := if f.inUi then
      (if k.lsYoungUi ≤ f.id then { k with lsYoungUi := f.id, lsHoldUi := f.latchValue } else k)
    else (if k.lsYoung ≤ f.id then { k with lsYoung := f.id, lsHold := f.latchValue } else k)
  if k.fl.any (fun g => g.unit == .ls && g.inUi == f.inUi) then k
  else k.landLatch f.inUi 2 (if f.inUi then k.lsHoldUi else k.lsHold)

/-- A result lands: flags, latch, and destination register, or the register is marked (R23, R133, R165, R166, R327).
A latch takes the bytes of a faulty reply as they are; without a destination register its fault waits for the next
release, YIELD, WAIT or END, and that of a unit of the die for the next acquire or release (R327, log 40). -/
def Core.landOne (k : Core) (f : Flight) : Core :=
  let k := { k with fl := k.fl.filter fun g => g.id != f.id }
  let k := k.setFlags f.flags
  let k := if f.unit = .ls then k.landLs f else k.landLatch f.inUi f.latchNo f.latchValue
  match f.dest with
  | none =>
    match f.bad with
    | none => k
    | some c =>
      if f.unit = .tk then { k with late := k.late ++ [(c, f.va)] }
      else { k with bad := k.bad ++ [⟨noReg, c, f.va, false⟩] }
  | some d =>
    if f.unit = .tk then
      let k := match f.bad with | some c => { k with late := k.late ++ [(c, f.va)] } | none => k
      k.writeRegs f.vrb f.prb d.toNat ((destCount f.cls d.toNat).getD 0) f.value.toNat
    else
    match f.bad with
    | none => k.writeRegs f.vrb f.prb d.toNat ((destCount f.cls d.toNat).getD 0) f.value.toNat
    | some c =>
      { k with bad := k.bad.filter (fun b => !f.names.contains b.reg.toNat) ++
          f.names.map fun n => ⟨BitVec.ofNat 8 n, c, f.va, false⟩ }

/-- The load a deferred access of ls is to give its value. -/
def Deferred.flight : Deferred → Option Nat
  | .load fid _ _ _ => some fid
  | _ => none

/-- Results of some units due by a time land, oldest first; a scratchpad load lands only when it has been
performed (R153). -/
def Core.landDue (k : Core) (now : Nat) (u : FUnit → Bool) : Core :=
  (k.fl.filter fun f => u f.unit && (match f.due with | some d => decide (d ≤ now) | none => false)
      && (f.unit != .ls || !(k.bs.deferred.any fun d => d.flight == some f.id))).foldl
    Core.landOne k

/-! ### Outcomes of a slot -/

/-- What a frozen bundle waits for (R168, R184, R217). -/
inductive Wait where
  | reg     -- a unit, an entry or an event that no request brings
  | reqs (ids : List Nat)   -- requests of the core: those of these numbers
  | copy    -- the copy engine
  | gather  -- the gather engine
  | mx      -- the matrix engine
  | sg      -- the Sedge engine
  | order (ids : List Nat) (reads : Bool) -- requests of these numbers, and those of the engines or their reads
  | image (va : W64) -- the capsule image at an address (R238)
  | pipe    -- room for pushes (R21)
deriving DecidableEq, Repr

/-- Deferred reports: the first three fall on a slot before anything of its bundle commits, begun flag 0
(R166, R327); those of the engines at the slot's commit (R174, R191, R220). -/
inductive Report where
  | writeBacks  -- a race carried by the slot's own eager release; the other write-backs take place
  | late        -- a race carried earlier by the core
  | reg         -- a poisoned or racy register nobody has read
  | copy | gather | matrix | sedge
  | drops       -- words a cluster's links dropped (R285)
  | nothing     -- QFULL of a wait on a stalled pass (R219)
  | named (l : List Nat) -- poisoned or racy registers that an instruction reads by name (R166)
deriving DecidableEq, Repr

/-- The commit of a slot. -/
inductive Commit where
  | ok (s : State)
  | raise (c : Cause) (faddr : Option W64)     -- nothing of the slot commits
  | after (s : State) (c : Cause) (faddr : W64) -- committed, then trapped (R232)
  | freeze (w : Wait)                           -- phase 2: the bundle freezes (R65)
  | early (c : Cause) (faddr : W64) (r : Report) -- a deferred report: begun flag 0
  | late (c : Cause) (faddr : W64) (r : Report)  -- an engine's report, in the slot's commit

/-- The value of a port, none while unset (R62). -/
def Core.port (k : Core) (p : Port) : Option V512 := k.ports[p.index]?.join

/-- Continues with the value of a port; ILLOPD while it is unset (R106, R129). -/
def needPort (s : State) (p : Port) (f : V512 → Commit) : Commit :=
  match s.me.port p with
  | some v => f v
  | none => .raise .illopd none

def Core.setPort (k : Core) (p : Port) (v : V512) : Core :=
  if h : p.index < 43 then { k with ports := k.ports.set p.index (some v) h } else k

/-- NCS at the bundle's read time (R48). -/
def Core.ncsRead (k : Core) : BitVec 10 := if k.bs.committed then k.bs.ncs0 else k.pctx.ncs

/-- The rounding mode in force for the bundle (R48). -/
def Core.rm (k : Core) : Rm := ncsRm k.ncsRead

/-- A result that a memory reply brings: of ls, or of a memory gather (R148, R165). -/
def Flight.isLoad (f : Flight) : Bool := f.unit == .ls || (f.unit == .vx && f.due.isNone)

/-- Requests of a core. -/
def State.reqsOf (s : State) (c : CoreId) : List Req := s.reqs.filter fun r => r.core == c

/-- A wait for requests of the executing core (R168). -/
def State.waitOn (s : State) (p : Req → Bool) : Wait := .reqs (((s.reqsOf s.cur).filter p).map (·.id))

/-- A wait for results: the requests that bring them (R168). -/
def State.waitFor (s : State) (p : Flight → Bool) : Wait :=
  let l := (s.me.fl.filter p).map (·.id)
  if s.me.ga.ops.any fun o => o.fid.any l.contains then .gather else s.waitOn fun r => l.contains r.fid

/-- The destination a trigger's result takes: none under K, ILLOPD when `.to` is unset or the register
refuses the class (R61, R62, R89). A register that awaits a load freezes the bundle (R165). -/
def withDest (s : State) (cls : ResClass) (keep : Bool) (dp : Port)
    (f : Option RegName → Commit) : Commit :=
  if keep then f none
  else match s.me.port dp with
    | none => .raise .illopd none
    | some v =>
      let d := BitVec.ofNat 8 v.toNat
      match destCount cls d.toNat with
      | none => .raise .illopd none
      | some n =>
        let l := groupNames s.me.vrb s.me.prb d.toNat n
        if l.any fun r => s.me.fl.any fun g => g.isLoad && g.names.contains r
        then .freeze (s.waitFor fun g => g.isLoad && l.any fun r => g.names.contains r) else f (some d)

/-- The latest due time of results in flight of a unit; 0 when none. -/
def Core.lastDue (k : Core) (u : FUnit) : Nat :=
  (k.fl.filter fun f => f.unit == u).foldl (fun m f => Nat.max m (f.due.getD 0)) 0

/-- A result set in flight, delivered lat control cycles after commit and after the unit's previous
result (R109, R132); results of ls come in any order (R165). -/
def State.launchFlight (s : State) (u : FUnit) (cls : ResClass) (d : Option RegName) (v : V512)
    (fl : Flags) (lat : Nat) : Nat × State :=
  let k := s.me
  let due := Nat.max (k.time + lat * k.cl) (if u = .ls ∨ k.lastDue u = 0 then 0 else k.lastDue u + k.cl)
  let (n, s) := s.takeId
  (due, s.onMe fun k => { k with
    fl := k.fl ++ [⟨n, u, cls, v, d, k.vrb, k.prb, fl, some due, 0, none, 0, false, k.ui.active, false⟩] })

/-- A trigger whose result is delivered after a fixed latency (R61, R109, R132). -/
def deliver (s : State) (u : FUnit) (cls : ResClass) (keep : Bool) (dp : Port) (v : V512) (fl : Flags)
    (lat : Nat) (wake : Option Instr) : Commit :=
  withDest s cls keep dp fun d =>
    let (due, s) := s.launchFlight u cls d v fl lat
    .ok (match wake with | some i => s.schedule due i | none => s)

/-- A latch written at once: units whose status the manual gives no latency (R89). -/
def Core.setLatch (k : Core) (n : Fin 12) (v : Nat) : Core :=
  { k with lat := k.lat.set n.val (some (BitVec.ofNat 512 v)) }

/-! ### Address translation (R407, R295, R300, R158) -/

/-- A valid map entry: present, PA, PW, PR, size, virtual base, physical base (R407). -/
structure Mapping where
  present : Bool
  pa : Bool
  pw : Bool
  pr : Bool
  psz : Nat
  vbase : Nat
  pbase : Nat
deriving DecidableEq, Repr

/-- The tag region, the top 256 MiB of device memory (R396). -/
def tagBase : Nat := 0x3FF0000000
def memEnd : Nat := 0x4000000000
def inTagRegion (a : Nat) : Bool := decide (tagBase ≤ a) && decide (a < memEnd)

/-- A map table entry from its two words; none when the die ignores it (R407). One whose page takes in the tag region is
ignored, since no mapping reaches that (R396, log 45). -/
def mapEntry (w0 w1 : Nat) : Option Mapping :=
  let psz := bits w0 57 56
  let vb := bits w0 55 19 * 2 ^ 19
  let pb := bits w1 51 0
  if bit w0 63 ∧ !bit w0 61 ∧ bits w0 18 0 = 0 ∧ bits w1 63 52 = 0 ∧ psz ≠ 3
      ∧ vb % 2 ^ pageBits psz = 0 ∧ pb % 2 ^ pageBits psz = 0 ∧ (pb + 2 ^ pageBits psz ≤ tagBase ∨ memEnd ≤ pb)
  then some ⟨bit w0 62, bit w0 60, bit w0 59, bit w0 58, psz, vb, pb⟩ else none

/-- The better of two covering entries: the smaller page, then the lower number (R407). -/
def betterMap (best : Option Mapping) (e : Mapping) : Option Mapping :=
  match best with
  | none => some e
  | some b => if e.psz < b.psz then some e else some b

/-- The mapping that applies to an address: n entries from table address a (R407). -/
def mapWalk (m : Memory) (va : Nat) : Nat → Nat → Option Mapping → Option Mapping
  | 0, _, best => best
  | n + 1, a, best =>
    mapWalk m va n (a + 16) (match mapEntry (m.read a 8) (m.read (a + 8) 8) with
      | some e => if e.vbase ≤ va ∧ va < e.vbase + 2 ^ pageBits e.psz then betterMap best e else best
      | none => best)

/-- The mapping of a context's table that covers an address, read afresh (R407, log 9). -/
def State.mapping (s : State) (x : CtxId) (va : Nat) : Option Mapping :=
  mapWalk s.mem va (s.ctx x).mapn.toNat (s.ctx x).mapb.toNat none

/-- The address lies in the window of an open stream of the context (R363). -/
def State.inWindow (s : State) (x : CtxId) (va : Nat) : Bool :=
  s.streams.any fun e => match e.2 with
    | some t => t.ctx == x && decide (t.vw ≠ 0) && decide (t.vw ≤ va) && decide (va < t.vw + t.cap * 2 ^ 19)
    | none => false

/-- The page that the window position of an address holds: PR and PW set, PA clear (R362, R363). No mapping reaches the tag
region (R396). -/
def State.windowPage (s : State) (x : CtxId) (va : Nat) : Option Mapping :=
  s.streams.findSome? fun e =>
    match e.2 with
    | some t =>
      if t.ctx = x ∧ t.cap ≠ 0 ∧ t.vw ≤ va ∧ va < t.vw + t.cap * 2 ^ 19 then
        let p := (va - t.vw) / 2 ^ 19
        t.win.findSome? fun w =>
          if w.pos = p ∧ !inTagRegion w.pa then some ⟨true, false, true, true, 0, t.vw + p * 2 ^ 19, w.pa⟩ else none
      else none
    | none => none

/-- The present mapping of an address: for a window position the page it holds and nothing else, otherwise the table's
(R363, R407). -/
def State.present (s : State) (x : CtxId) (va : Nat) : Option Mapping :=
  if s.inWindow x va then s.windowPage x va
  else match s.mapping x va with
    | some m => if m.present then some m else none
    | none => none

/-- The launch with an identifier. -/
def State.launch (s : State) (id : Nat) : Option Launch := s.launches.find? fun l => l.id == id

/-- Permissions of the leases that cover an address, none outside them (R295). -/
def leasePerm (l : List Lease) (va : Nat) : Option (Bool × Bool × Bool) :=
  let c := l.filter fun e => decide (e.vbase ≤ va) && decide (va < e.vbase + e.len)
  if c.isEmpty then none else some (c.any (·.pr), c.any (·.pw), c.any (·.pa))

/-- Translation for a strand: by its launch's leases, or by every present mapping for a supervisor strand
and a strand of no launch (R157, R295, R300). -/
def State.translate (s : State) (x : CtxId) (launch : Option Nat) (va : Nat) : Option Mapping :=
  match s.present x va with
  | none => none
  | some m =>
    match launch with
    | none => some m
    | some id =>
      if x = 0 then some m
      else match (s.launch id).bind fun l => leasePerm l.leases va with
        | some (r, w, a) => some { m with pr := m.pr && r, pw := m.pw && w, pa := m.pa && a }
        | none => none

/-- Translation for the strand a core runs. -/
def State.translateHere (s : State) (va : Nat) : Option Mapping :=
  s.translate s.me.ctx (s.me.run.bind Running.launch) va

/-- The physical address of an address under its mapping. -/
def Mapping.phys (m : Mapping) (va : Nat) : Nat := m.pbase + (va - m.vbase)

/-- The handle TRN gives for a mapping (R157). -/
def Mapping.handle (m : Mapping) (x : CtxId) : Handle :=
  mkHandle m.psz m.pr m.pw m.pa x.toNat m.vbase m.pbase

/-! ### Sources (R23, R27, R57, R58) -/

/-- Special readables (R27). -/
def State.special (s : State) (n : Nat) : Nat :=
  let k := s.me
  let w1 := match k.run with | some r => r.rcd.w1.toNat | none => 0
  let w2 := match k.run with | some r => r.rcd.w2.toNat | none => 0
  let w3 := match k.run with | some r => r.rcd.w3.toNat | none => 0
  match n with
  | 0xEC => w1 - w1 % 16
  | 0xED => w3 / 2 ^ 48
  | 0xEE => k.ctx.toNat + 16 * boolCode k.sup
  | 0xEF => s.gt % 2 ^ 32
  | 0xF0 => s.gt / 2 ^ 32 % 2 ^ 32
  | 0xF1 => k.ccyc.toNat
  | 0xF2 => k.frz.toNat
  | 0xF3 => k.splc.toNat
  | 0xF4 => k.vrb + 256 * k.prb
  | 0xF5 => w2 / 2 ^ 32
  | 0xF6 => w2 % 2 ^ 32
  | 0xF7 => match k.run with | some r => r.rflg.toNat | none => 0
  | 0xF8 => s.cur.toNat + 2 ^ 12 * s.die.devid.toNat
  | _ => 0

/-- A source read in phase 3. -/
inductive ReadRes where
  | val (v : V512)
  | fault (c : Cause) (faddr : Option W64)
  | freeze (w : Wait)
deriving DecidableEq, Repr

/-- The queue behind a head: entries readable now, or what a read of it does while it is empty. -/
inductive HeadRes where
  | entry (e : QEntry) (count : Nat)
  | empty (r : ReadRes)
deriving DecidableEq, Repr

/-- Entries of a pipe the consumer can read (R277). -/
def Pipe.readable (p : Pipe) : List QEntry := (p.entries.takeWhile (·.2)).map (·.1)

/-- The pipe bound to a head q4 to q7 (R277). -/
def State.inPipe (s : State) (c : CoreId) (n : Nat) : Option Pipe :=
  ((s.core c).inPipe[n - 4]?.join).bind fun i => (s.cluster (clusterOf c)).pipes[i]?.join

/-- Head n of the executing core (R200, R218, R277, R284). -/
def State.head (s : State) (n : Fin 8) : HeadRes :=
  let k := s.me
  let plain (l : List QEntry) (r : ReadRes) : HeadRes :=
    match l with
    | e :: _ => .entry e l.length
    | [] => .empty r
  if n.val = 0 then plain k.q0 (if 0 < k.resv0 then .freeze .mx else .fault .qempty none)
  else if n.val = 1 then plain k.q1 (if 0 < k.resv1 then .freeze .mx else .fault .qempty none)
  else if n.val = 2 then
    plain k.q2 (if k.sg.pass.isSome then .freeze .sg
      else match k.sg.err with | some (c, a) => .fault c (some a) | none => .fault .qempty none)
  else if n.val = 3 then
    let h := (s.cluster (clusterOf s.cur)).hedge
    let fresh := (h.landed.filter fun e => decide (k.time ≤ e.1) && e.2.val == s.cur.toNat % 8).length
    plain (k.q3.take (k.q3.length - fresh)) (.fault .qempty none)
  else match s.inPipe s.cur n.val with
    | none => .empty (.fault .illopd none)
    | some p => plain p.readable (if p.prodEnded && p.entries.isEmpty then .fault .qempty none else .freeze .reg)

/-- Reads the source of a move (R57, R65 phase 3). A poisoned register faults unless the bundle was
re-entered (R166). -/
def State.readSource (s : State) (i : Instr) : ReadRes :=
  let k := s.me
  match i.src? with
  | none => .val 0
  | some (.imm v) => .val (BitVec.ofNat 512 (wrap (sx v.toNat 8) 64))
  | some (.pool p) => .val (BitVec.ofNat 512 (poolValue p (hdrPool k.bs.hdr).toNat))
  | some (.latch n) =>
    if k.busyLatch n then .freeze (s.waitFor fun f => f.latchNo == n && f.inUi == k.ui.active)
    else match k.lat[n.val] with
      | some v => .val v
      | none => .fault .illopd none
  | some (.head n) =>
    match s.head n with
    | .entry e _ => if e.bad then .fault .eccunc none else .val e.data
    | .empty r => r
  | some (.reg n) =>
    match nameSpace n.toNat with
    | .sp | .un => .val (BitVec.ofNat 512 (s.special n.toNat))
    | .m | .a => .val (BitVec.ofNat 512 n.toNat)
    | space =>
      if space = .c ∧ i.trigger.isSome then .val (BitVec.ofNat 512 n.toNat)
      else
        let l := groupNames k.vrb k.prb n.toNat i.srcCount
        if l.any k.busyReg then .freeze (s.waitFor fun f => l.any fun n => f.names.contains n)
        else match k.bad.find? fun b => l.contains b.reg.toNat && !k.bs.quiet with
          | some b => .fault b.cause (some b.va)
          | none => .val (BitVec.ofNat 512 (k.rf.readGroup space.width l))

/-! ### Freezing (R167, R168) -/

/-- The engine cycle in which row r of a drain is pushed (R184, R200). -/
def Drain.rowAt (d : Drain) (r : Nat) : Nat := d.start + ceilDiv ((4 + r) * d.num) d.den

/-- A control cycle ends in which the matrix pipes, the Sedge engine, or both ran; what falls due at the
start of the next is scheduled (R184, R214 to R217). -/
def State.runEngines (s : State) (c : CoreId) (mx sg : Bool) : State :=
  let s := s.onCore c fun k => { k with
    mx := { k.mx with clk := k.mx.clk + boolCode mx }
    sg := { k.sg with clk := k.sg.clk + boolCode sg } }
  let k := s.core c
  let n := k.mx.clk
  let s := if k.mx.arr.any fun a => decide (a.retire ≤ n) then s.schedule k.time (.arrayRetire c) else s
  let s := if k.mx.drn.any fun d => decide (d.next < 32) && decide (d.rowAt d.next ≤ n)
    then s.schedule k.time (.drainRowPush c) else s
  let s := if k.mx.drn.any fun d => decide (d.retire ≤ n) then s.schedule k.time (.drainRetire c) else s
  match k.sg.pass with
  | none => s
  | some p =>
    if !sg then s
    else
      let s := if p.pushes.any fun e => decide (e.2 ≤ k.sg.clk) then s.schedule k.time (.sedgeRowPush c) else s
      s.schedule k.time (.sedgeIssueCycle c)

/-- One control cycle passes on a core without a commit (R167). -/
def Core.frozenCycle (k : Core) (w : List Wait) (slot : Nat) (va : W64) : Core :=
  { k with
    time := k.time + k.cl
    ccyc := k.ccyc + 1
    frz := k.frz + 1
    run := k.run.map fun r => { r with frozen := r.frozen + k.pctx.divCtl }
    bs := { k.bs with
      frozenSince := some (k.bs.frozenSince.getD k.time)
      pipeWait := decide (w ≠ []) && w.all (· == .pipe)
      wdSlot := slot
      wdVa := va } }

/-- n control cycles of a core in which its matrix pipes and its Sedge engine run, frozen or not (R202, R222). -/
def State.engineCycles (s : State) (c : CoreId) (frozen : Bool) : Nat → State
  | 0 => s
  | n + 1 => ((s.onCore c fun k => { k with
      time := k.time + k.cl
      ccyc := k.ccyc + 1
      frz := if frozen then k.frz + 1 else k.frz
      run := if frozen then k.run.map fun r => { r with frozen := r.frozen + k.pctx.divCtl } else k.run
      }).runEngines c true true).engineCycles c frozen n

/-- The virtual address of a line that an engine has requested through a handle. -/
def Handle.lineVa (h : Handle) (line : Nat) : W64 := BitVec.ofNat 64 (h.vbase + 128 * line - h.pbase)

/-- The requests for memory that a core's copy engine waits for, or its reads alone: when each was made, and its address
(R168). -/
def Core.copyAsks (k : Core) (reads : Bool) : List (Nat × W64) :=
  match k.cp.active with
  | none => []
  | some y => (if y.record.isNone && decide (k.time < y.recUntil) then [(y.recSent, y.recAddr)] else [])
    ++ (y.lines.filter fun l => l.due.isSome && !(reads && y.out)).map fun l => (l.sent, Handle.lineVa y.page l.line)

/-- Those of the gather engine: its lanes. -/
def Core.gatherAsks (k : Core) (reads : Bool) : List (Nat × W64) :=
  let out (l : GatherLane) : Bool := l.due.any fun t => decide (k.time ≤ t)
  k.ga.ops.flatMap fun o => (o.rows.filter fun r => r.load || !reads).flatMap fun r =>
    (r.lanes.filter out).map fun l => (l.sent, l.va)

/-- Those of the matrix engine: its rows. -/
def Core.rowAsks (k : Core) (reads : Bool) : List (Nat × W64) :=
  (k.mx.xfer.filter fun o => !Handle.isSpad o.handle && (o.load || !reads)).flatMap fun o => o.out.map fun e =>
    (e.2.2, Handle.va o.handle (Int.toNat (Int.ofNat o.off + o.stride * Int.ofNat e.1)))

/-- Those of the Sedge engine: the lines of its grammar. -/
def Core.passAsks (k : Core) : List (Nat × W64) :=
  match k.sg.pass with
  | none => []
  | some p => p.flying.map fun e => (e.2.2, Handle.lineVa p.handle ((Handle.pbase p.handle + p.off) / 128 + e.1))

/-- The first-made of some requests. -/
def oldestAsk : List (Nat × W64) → Option (Nat × W64)
  | [] => none
  | e :: r => match oldestAsk r with
    | none => some e
    | some f => if e.1 ≤ f.1 then some e else some f

/-- The requests for memory that a wait waits for: when each was made, and its address (R168). -/
def State.asksOf (s : State) (w : Wait) : List (Nat × W64) :=
  let k := s.me
  let named (l : List Nat) : List (Nat × W64) :=
    ((s.reqsOf s.cur).filter fun r => l.contains r.id).map fun r => (r.start, r.va)
  match w with
  | .reqs l => named l
  | .copy => k.copyAsks false
  | .gather => k.gatherAsks false
  | .mx => k.rowAsks false
  | .sg => k.passAsks
  | .order l b => named l ++ k.copyAsks b ++ k.gatherAsks b ++ k.rowAsks b ++ k.passAsks
  | .image va => [(0, va)]
  | .reg | .pipe => []

/-- The virtual address of the oldest request that a frozen bundle waits for, or 0 (R168, log 46). -/
def State.waitVa (s : State) (w : List Wait) : W64 :=
  match oldestAsk (w.flatMap s.asksOf) with
  | some e => e.2
  | none => 0

/-- The core executing freezes for a cycle. The matrix pipes and the Sedge engine run in it only when every
hazard waits on that engine (R167, R184, R217). -/
def State.freeze (s : State) (w : List Wait) (slot : Nat) : State :=
  (s.onMe fun k => k.frozenCycle w slot (s.waitVa w)).runEngines s.cur
    (decide (w ≠ []) && w.all (· == .mx)) (decide (w ≠ []) && w.all (· == .sg))

/-! ### Faults and traps (R66, R229 to R235) -/

/-- Codes of R226. -/
def Cause.code : Cause → Nat
  | .illenc => 1 | .illopd => 2 | .align => 3 | .hstale => 4 | .lease => 5 | .qfull => 6 | .qempty => 7
  | .ruledepth => 8 | .ruleundef => 9 | .mmrace => 10 | .dblfault => 11 | .wdfreeze => 12
  | .sliceovr => 13 | .priv => 14 | .clkdiv => 15 | .loopstk => 16 | .fmtreg => 17 | .eccunc => 18
  | .pipewd => 19 | .argrange => 20 | .trapins => 21 | .brk => 22 | .hbound => 23 | .ringstate => 24
  | .kvstate => 25 | .launchrange => 26 | .relocfit => 27

/-- Faults delivered to the trap handler; LEASE and SLICEOVR end the strand (R226). -/
def Cause.toHandler : Cause → Bool
  | .lease => false
  | .sliceovr => false
  | _ => true

/-- A fault recorded: the capsule takes what the bundle holds, and the core delivers it (R66). -/
def Core.raise (k : Core) (c : Cause) (faddr : W64) (slot : Nat) (begun : Bool) : Core :=
  { k with phase := .faulting ⟨c, faddr, slot, begun, k.pc⟩ }

/-- A revocation that a slot of the bundle has committed still waits for its page's accesses (R159, R245). -/
def Core.revoking (k : Core) : Bool := k.bs.waits.any fun w => match w with | .revoke .. => true | _ => false

/-- Nothing with a latch result is in flight (R231 step 1), and what the bundle has committed to revoke is revoked: no
re-entry runs its slot again (R68, R245, log 24). -/
def Core.quietLatches (k : Core) : Bool := k.fl.isEmpty && !k.revoking

/-- The capsule of a fault (R231 step 3, R234, R235): source values of the uncommitted slots only, also where the
fault has begun flag 0 and slots have committed (R168), and those read before a fault of the read phase too (R66;
DEDUCED against R68's words, log 38). -/
def Core.capsuleOf (k : Core) (r : Raised) : Capsule where
  baddr := r.baddr
  faddr := r.faddr
  cause := r.cause
  resume := r.slot
  begun := r.begun
  sup := k.sup
  inui := k.ui.active
  popd := hdrPop k.bs.hdr
  kind := BitVec.ofNat 4 (hdrKind k.bs.hdr)
  ctx := k.ctx
  ops := Vector.ofFn fun i => if (if r.begun then r.slot else k.bs.slot) ≤ i.val then k.bs.ops[i] else none
  lat := k.lat
  ports := k.ports
  loops := k.loops
  vrb := k.vrb
  prb := k.prb

/-- Control passes to a bundle; its segment is found at the next decode (R75). -/
def Core.goTo (k : Core) (t : Target) : Core :=
  { k with pc := t, phase := .run, bs := { BundleState.reset with arrived := decide (t.seg ≠ k.pc.seg) } }


/-- What a trapped bundle of which slots have committed had read, and its branch, are kept for its re-entry (R68,
log 38). -/
def Core.keepRead (k : Core) (r : Raised) : List ReadTime :=
  if r.begun then
    ⟨r.baddr.abs, r.slot, k.bs.ncs0, k.bs.ec0, k.bs.f0, k.bs.branch⟩
      :: k.readTimes.filter fun e => !(e.baddr == r.baddr.abs && e.resume == r.slot)
  else k.readTimes

/-- Trap entry (R231 steps 3 to 6): fills the capsule, masks traps, clears latches, ports, loops and
bases, places the capsule area's handle in sy.h, and goes to TVEC. The 16 cycles count as frozen, and the engines run
in them (R202, R222). A capsule area that does not translate is a double fault, left in the phase for DBLFAULT. -/
def State.trapEntryNow (s : State) (c : CoreId) (r : Raised) : State :=
  let s := s.engineCycles c true 16
  let k := s.core c
  let x := s.ctx k.ctx
  let k' : Core := { k with
    capsule := some (k.capsuleOf r)
    capst := false
    readTimes := k.keepRead r
    masked := true
    lat := Latches.reset
    ports := Ports.reset
    loops := []
    vrb := 0
    prb := 0 }
  let tr := if x.capb = 0 ∨ x.capb.toNat ≥ 2 ^ 56 then none else s.present k.ctx x.capb.toNat
  match tr with
  | none => s.setCore c { k' with phase := .faulting { r with cause := .dblfault } }
  | some m =>
    s.setCore c (((k'.setPort .syH (BitVec.ofNat 512 (m.handle k.ctx).toNat)).goTo
      (Target.ofAbs x.tvec.toNat)))

/-- Delivers the fault of a core at once when it goes to the handler and nothing is in flight (R231);
otherwise the fault waits in the core's phase. -/
def State.deliverFault (s : State) (c : CoreId) : State :=
  let k := s.core c
  match k.phase with
  | .faulting r =>
    if r.cause.toHandler && r.cause != .dblfault && !k.masked && decide ((s.ctx k.ctx).tvec ≠ 0)
      && k.quietLatches
    then s.trapEntryNow c r else s
  | _ => s

/-- Bytes of a scratchpad have an uncorrectable soft error (R384). -/
def Core.spadErr (k : Core) (a n : Nat) : Bool := k.spadBad.any fun b => decide (a ≤ b) && decide (b < a + n)

/-- n bytes written to a scratchpad: an error in them is gone (R151, R384). -/
def Core.spadWrite (k : Core) (a n v : Nat) : Core :=
  { k with spad := k.spad.write a n v, spadBad := k.spadBad.filter fun b => decide (b < a) || decide (a + n ≤ b) }

/-- Performs the scratchpad accesses of ls that a bundle has committed, in order; a load of bytes with an uncorrectable
error gets a faulty reply (R153, R166). -/
def State.flushDeferred (s : State) : State :=
  let step (s : State) (d : Deferred) : State :=
    match d with
    | .load fid off n sext =>
      let v := s.me.spad.read off n
      let v := if sext then wrap (sx v (8 * n)) 64 else v
      let bad := s.me.spadErr off n
      s.onMe fun k => { k with fl := k.fl.map fun f => if f.id = fid then { f with
          value := BitVec.ofNat 512 v
          bad := if bad then some .eccunc else f.bad
          va := if bad then Handle.va (spadHandle k.ctx) off else f.va } else f }
    | .store off n v => s.onMe fun k => k.spadWrite off n v
    | .images req off =>
      let v := s.me.spad.read off 512
      { s with reqs := s.reqs.map fun r => if r.id = req then { r with data := v } else r }
  (s.me.bs.deferred.foldl step s).onMe fun k => { k with bs := { k.bs with deferred := [] } }

/-- A fault of the executing core (R66, R229); accesses its bundle has committed are performed. A fault
address the manual does not state is a free value (log 5). -/
def State.fault (s : State) (c : Cause) (faddr : Option W64) (slot : Nat) (begun : Bool) : State :=
  let (a, s) := match faddr with
    | some a => (a, s)
    | none => let (n, s) := s.takeFree; (BitVec.ofNat 64 n, s)
  (s.flushDeferred.onMe fun k => k.raise c a slot begun).deliverFault s.cur

end Sys2Proof.Machine
end

