-- ==== Sys2Proof/Machine/Sward.lean ====
section
/-! DEFINITION. Sward block codes: the tag a controller chooses for a 256-byte block, its stored bytes, the sectors read
and the expansion (R396, R397). -/

namespace Sys2Proof.Machine

/-- The words of a 256-byte block of memory. -/
def blockWords (m : Memory) (k : Nat) : List Nat :=
  let v := m.read (256 * k) 256
  (upto 64).map fun i => getBytes v (4 * i) 4

/-- z_i of a word and the one before it. -/
def blockZ (a b : Nat) : Nat :=
  let d := (b + 2 ^ 32 - a) % 2 ^ 32
  (2 * d % 2 ^ 32) ^^^ (if sx d 32 < 0 then 2 ^ 32 - 1 else 0)

/-- z_0 to z_63 of a block's words. -/
def blockZs (l : List Nat) : List Nat := 0 :: (l.zip l.tail).map fun e => blockZ e.1 e.2

/-- b, the bit length of the largest z_i. -/
def blockB (l : List Nat) : Nat := bitLen ((blockZs l).foldl Nat.max 0)

/-- The tag a controller chooses for a block. -/
def blockTag (l : List Nat) : BitVec 2 :=
  if l.all (· == 0) then 0
  else if l.all (· == l.headD 0) then 1
  else if blockB l ≤ 23 then 2
  else 3

/-- Plane j of a delta-bitplane block: bit i is bit j of z_i. -/
def blockPlane (l : List Nat) (j : Nat) : Nat := packNat 1 ((blockZs l).map fun z => z / 2 ^ j)

/-- The stored bytes of a block under a tag, as a little-endian value. -/
def blockStored (t : BitVec 2) (l : List Nat) : Nat :=
  if t = 0 then 0
  else if t = 1 then l.headD 0
  else if t = 2 then l.headD 0 + 2 ^ 32 * blockB l + 2 ^ 64 * packNat 64 ((upto (blockB l)).map (blockPlane l))
  else packNat 32 l

/-- The 32-byte sectors a read of a block takes, from its tag and the b of its stored code. -/
def codeSectors (t : BitVec 2) (b : Nat) : Nat :=
  if t = 0 then 0 else if t = 1 then 1 else if t = 2 then ceilDiv (8 + 8 * b) 32 else 8

/-- The 32-byte sectors that words take under a tag. -/
def tagSectors (t : BitVec 2) (l : List Nat) : Nat := codeSectors t (blockB l)

/-- The difference that a z stands for. -/
def unZ (z : Nat) : Nat := (z / 2) ^^^ (if z % 2 = 1 then 2 ^ 32 - 1 else 0)

/-- Words from the first one and the differences. -/
def sumWords : Nat → List Nat → List Nat
  | w, [] => [w]
  | w, d :: r => w :: sumWords ((w + d) % 2 ^ 32) r

/-- The words that stored bytes expand to. -/
def blockExpand (t : BitVec 2) (v : Nat) : List Nat :=
  if t = 0 then List.replicate 64 0
  else if t = 1 then List.replicate 64 (getBytes v 0 4)
  else if t = 2 then
    let b := getBytes v 4 1
    let z (i : Nat) : Nat := packNat 1 ((upto b).map fun j => getBytes v (8 + 8 * j) 8 / 2 ^ i)
    sumWords (getBytes v 0 4) ((upto 63).map fun i => unZ (z (i + 1)))
  else (upto 64).map fun i => getBytes v (4 * i) 4

end Sys2Proof.Machine
end

