-- ==== Sys2Proof/Machine/Mem.lean ====
section
/-! DEFINITION. Device memory as the slices hold it, the L1 caches, lazy release, pulls, versions and
race detection (R265 to R270, R313 to R327). Bytes of `State.mem` are those at the slices; write-backs
are performed at once (log 8). -/

namespace Sys2Proof.Machine

/-! ### Scopes and happens-before (R313, R315) -/

/-- A scope holds between operations of two cores (R313). -/
def scopeHolds (sc : Sc) (a b : CoreId) : Bool :=
  match sc with
  | .core => a == b
  | .clu => clusterOf a == clusterOf b
  | .die => true
  | .sys => true

/-- Counts joined pointwise. -/
def vcJoin (a b : Vc) : Vc := b.foldl (fun t e => Tbl.put 0 t e.1 (Nat.max (Tbl.get 0 t e.1) e.2)) a

/-- Release n of strand u was seen (R315). -/
def vcSaw (v : Vc) (u n : Nat) : Bool := decide (n ≤ Tbl.get 0 v u)

/-- Who makes an access: core, strand, context, what the strand has seen, and the first of its releases that
covers the access. -/
structure Who where
  core : CoreId
  uid : Nat
  ctx : CtxId
  vc : Vc
  clk : Nat
deriving DecidableEq, Repr

/-- A strand that has seen as much, and counts its own releases. -/
def whoOf (c : CoreId) (uid : Nat) (x : CtxId) (vc : Vc) : Who := ⟨c, uid, x, vc, Tbl.get 0 vc uid + 1⟩

/-- The strand a core runs. -/
def State.who (s : State) (c : CoreId) : Who :=
  let k := s.core c
  match k.run with
  | some r => whoOf c r.uid k.ctx r.vc
  | none => whoOf c 0 k.ctx []

/-- What the release that covers an access passes on (R315). -/
def Who.passes (w : Who) : Vc := Tbl.put 0 w.vc w.uid w.clk

/-- The strand a core runs has seen more (an acquire, R315). -/
def State.acquireVc (s : State) (c : CoreId) (v : Vc) : State :=
  s.onCore c fun k => { k with run := k.run.map fun r => { r with vc := vcJoin r.vc v } }

/-- A release of the strand a core runs: what it passes on, and the strand with a new count (R315). -/
def State.releaseVc (s : State) (c : CoreId) : Vc × State :=
  match (s.core c).run with
  | none => ([], s)
  | some r =>
    let v := Tbl.put 0 r.vc r.uid (Tbl.get 0 r.vc r.uid + 1)
    (v, s.onCore c fun k => { k with run := some { r with vc := v } })

/-! ### The L1 (R154) -/

def lineOf (a : Nat) : Nat := a / 128
def granuleOf (a : Nat) : Nat := a / 16

/-- The line in a core's L1. -/
def Core.l1Find (k : Core) (line : Nat) : Option L1Line := k.l1.find? fun e => e.line == line

def Core.l1Drop (k : Core) (line : Nat) : Core := { k with l1 := k.l1.filter fun e => e.line != line }

/-- A line used: first in the order of use. -/
def Core.l1Touch (k : Core) (e : L1Line) : Core := { k with l1 := e :: k.l1.filter fun x => x.line != e.line }

/-- n bytes of a line at byte o. -/
def L1Line.get (e : L1Line) (o n : Nat) : Nat := getBytes e.data.toNat o n

/-- No byte of n from byte o on has been discarded by an acquire. -/
def L1Line.fresh (e : L1Line) (o n : Nat) : Bool := bits e.stale.toNat (o + n - 1) o == 0

/-- The bytes of a line that no store has made dirty, as a mask of its data. -/
def L1Line.cleanMask (e : L1Line) : Nat :=
  (upto 128).foldl (fun m i => if e.dirty.getLsbD i then m else m + 255 * 2 ^ (8 * i)) 0

/-- A line kept for its dirty bytes takes the others afresh from its slice (R316). -/
def L1Line.refresh (e : L1Line) (v : Nat) : L1Line :=
  { e with data := BitVec.ofNat 1024 ((e.data.toNat &&& (2 ^ 1024 - 1 - e.cleanMask)) ||| (v &&& e.cleanMask)), stale := 0 }

/-- The L1 of a core holds n bytes at an address. -/
def Core.l1Has (k : Core) (a n : Nat) : Bool :=
  match k.l1Find (lineOf a) with
  | some e => e.fresh (a % 128) n
  | none => false

/-- n bytes stored into a line by a strand (R320, R322). -/
def L1Line.put (e : L1Line) (o n v epoch : Nat) (w : Who) : L1Line :=
  { e with
    data := BitVec.ofNat 1024 (setBytes e.data.toNat o n v)
    dirty := e.dirty ||| BitVec.ofNat 128 ((2 ^ n - 1) * 2 ^ o)
    epoch := if e.dirty = 0 then epoch else e.epoch
    wr := Tbl.put (0, []) e.wr (o / 16) (w.uid, w.vc) }

/-! ### Slices (R265 to R268) -/

/-- Key of a line's set among all slices (R266). -/
def setKey (line : Nat) : Nat :=
  let a := 128 * line
  (sliceHash a).toNat * 256 + bits a 8 7 + 4 * bits a 23 18

def State.sline (s : State) (line : Nat) : Option SLine := Tbl.get none s.slines line

def State.setSline (s : State) (line : Nat) (l : Option SLine) : State :=
  { s with slines := Tbl.put none s.slines line l }

/-- A request for a line homed in a cluster in retention wakes it (R286). -/
def State.wakeFor (s : State) (line : Nat) : State :=
  let k := homeCluster (128 * line)
  if (s.cluster k).retained then s.schedule (s.now + 54000) (.retentionWake k false) else s

/-- A line is written at its slice by a context, or by none: the set counter advances; the line, if resident, takes
the count as its version and is the latest used (R266, R268, R380). -/
def State.bumpVersion (s : State) (line : Nat) (x : Option CtxId) : State :=
  let s := s.wakeFor line
  let v := Tbl.get 0 s.setCtr (setKey line) + 1
  let s := { s with setCtr := Tbl.put 0 s.setCtr (setKey line) v }
  match s.sline line with
  | some l => s.setSline line (some { l with version := v, dirty := true, used := s.now, lastCtx := x, vacant := false })
  | none => s

/-! ### Device memory behind the slices (R380, R396 to R399) -/

/-- Bytes a context moves to or from GDDR-7, for the meter (R380). -/
def State.countGddr (s : State) (x : Option CtxId) (n : Nat) : State :=
  match x with
  | some x => s.onCtx x fun c => { c with gddrBytes := c.gddrBytes + n }
  | none => { s with die := { s.die with houseBytes := s.die.houseBytes + n } }

/-- Bytes a context moves over the host or peer links, for the meter (R380). -/
def State.countLink (s : State) (x : Option CtxId) (n : Nat) : State :=
  match x with
  | some x => s.onCtx x fun c => { c with linkBytes := c.linkBytes + n }
  | none => { s with die := { s.die with houseLink := s.die.houseLink + n } }

/-- The tag of a block; the blocks of the tag region are raw (R396). -/
def State.tagOf (s : State) (k : Nat) : BitVec 2 := if inTagRegion (256 * k) then 3 else Tbl.get 0 s.sward k

/-- A block written at its controller: coded when one request covers it, otherwise raw (R398). -/
def State.storeBlock (s : State) (k : Nat) (whole : Bool) : State :=
  if tagBase ≤ 256 * k then s
  else
    let w := blockWords s.mem k
    { s with
      sward := Tbl.put 0 s.sward k (if whole then blockTag w else 3)
      swardB := Tbl.put 0 s.swardB k (if whole && blockTag w == 2 then blockB w else 0) }

/-- Bytes that move when a block is read or written in its stored form: those of the code it was stored with, whatever
the slices hold of it since (R396, R397). -/
def State.blockBytes (s : State) (k : Nat) : Nat := 32 * codeSectors (s.tagOf k) (Tbl.get 0 s.swardB k)

/-- Host memory and peer windows lie above device memory (log 6). -/
def onLink (a : Nat) : Bool := decide (memEnd ≤ a)

/-- The hop behind an address takes coded blocks: SW of the peer in whose window it lies, otherwise the host's (R395,
R399, log 45). -/
def State.hopTakes (s : State) (a : Nat) : Bool :=
  match (upto 64).find? fun i =>
      (Tbl.get 0 s.die.peers (2 * i)).testBit 63 && decide (Tbl.get 0 s.die.peers (2 * i + 1) ≤ a)
        && decide (a < Tbl.get 0 s.die.peers (2 * i + 1) + memEnd) with
  | some i => (Tbl.get 0 s.die.peers (2 * i)).testBit 20
  | none => s.die.hswd.getLsbD 0

/-- A block that leaves over a link: the sectors its code needs where the hop takes coded blocks, otherwise expanded
(R399). -/
def State.countBlock (s : State) (k : Nat) (x : Option CtxId) : State :=
  s.countLink x (if s.hopTakes (256 * k) then
    32 * tagSectors (blockTag (blockWords s.mem k)) (blockWords s.mem k) else 256)

/-- A line read from where it lies: of a coded block the sectors of its code (R380, R396). -/
def State.countRead (s : State) (line : Nat) (x : Option CtxId) : State :=
  if onLink (128 * line) then s.countLink x 128
  else s.countGddr x (if s.tagOf (line / 2) = 3 then 128 else s.blockBytes (line / 2))

/-- Both lines of a block written in one request (R398, R399). -/
def State.sendBlock (s : State) (k : Nat) (x : Option CtxId) : State :=
  if onLink (256 * k) then s.countBlock k x
  else
    let s := s.storeBlock k true
    s.countGddr x (s.blockBytes k)

/-- m bytes of a block written in one request: all of it, or a part, for which the controller reads the block, merges the
write and stores it raw (R398). -/
def State.sendBytes (s : State) (k m : Nat) (x : Option CtxId) : State :=
  if m = 256 then s.sendBlock k x
  else if onLink (256 * k) then s.countLink x m
  else
    let n := if s.tagOf k = 3 then m else s.blockBytes k + 256
    (s.storeBlock k false).countGddr x n

/-- A line written without its partner (R398). -/
def State.sendPart (s : State) (line : Nat) (x : Option CtxId) : State := s.sendBytes (line / 2) 128 x

/-- A line that its slice does not hold is written past it to its controller (R398). -/
def State.pastSlice (s : State) (line : Nat) (x : Option CtxId) : State :=
  if (s.sline line).isSome then s else s.sendPart line x

/-- Writes that land in memory end the synchronisations of the locations they cover, but for releases of the
writing core itself (R315). -/
def State.forgetSyncs (s : State) (a n : Nat) (keep : Option CoreId) : State :=
  { s with syncs := s.syncs.filterMap fun e =>
      if e.1 < a || a + n ≤ e.1 then some e
      else match e.2.filter fun m => some m.core == keep with
        | [] => none
        | l => some (e.1, l) }

/-- The fault address of a race (R327). -/
def raceAddr (g : Nat) : W64 := BitVec.ofNat 64 (2 ^ 63 + 16 * g)

def State.granule (s : State) (g : Nat) : Granule := Tbl.get Granule.reset s.granules g

/-- An access the strand is not ordered after (R315), both slice operations apart (R314). -/
def unordered (uid : Nat) (vc : Vc) (sliceOp : Bool) (e : Seen) : Bool :=
  e.uid != uid && !vcSaw vc e.uid e.clk && !(sliceOp && e.sliceOp)

/-- Case 2 of R325: a read after an unordered write has reached the slice. -/
def State.raceRead (s : State) (uid : Nat) (vc : Vc) (sliceOp : Bool) (g : Nat) : Bool :=
  (s.granule g).writes.any (unordered uid vc sliceOp)

/-- Cases 1 and 3 of R325: a write after an unordered write, or after an unordered read whose core still
holds the line. -/
def State.raceWrite (s : State) (uid : Nat) (vc : Vc) (sliceOp : Bool) (g : Nat) : Bool :=
  (s.granule g).writes.any (unordered uid vc sliceOp) ||
  (s.granule g).reads.any fun e =>
    unordered uid vc sliceOp e && ((s.core e.core).l1Find (g / 8)).isSome

/-- A list of accesses with the strand's latest in place of its earlier one of the same kind on the same core, slice
operations apart (R314, R325). -/
def seenPut (l : List Seen) (e : Seen) : List Seen :=
  e :: l.filter fun x => x.uid != e.uid || x.sliceOp != e.sliceOp || x.core != e.core

def State.noteRead (s : State) (w : Who) (sliceOp : Bool) (g : Nat) : State :=
  let r := s.granule g
  let r : Granule := { r with reads := seenPut r.reads ⟨w.uid, w.clk, w.core, sliceOp⟩ }
  { s with granules := Tbl.put Granule.reset s.granules g r }

def State.noteWrite (s : State) (w : Who) (sliceOp : Bool) (g : Nat) : State :=
  let r := s.granule g
  let r : Granule := { r with writes := seenPut r.writes ⟨w.uid, w.clk, w.core, sliceOp⟩ }
  { s with granules := Tbl.put Granule.reset s.granules g r }

/-! ### Write-backs (R320, R321, R327) -/

/-- Writes the dirty bytes of a line, offsets o to o + n - 1, to memory. -/
def copyDirty (m : Memory) (e : L1Line) : Nat → Nat → Memory
  | 0, _ => m
  | n + 1, o =>
    copyDirty (if e.dirty.getLsbD o then m.setByte (128 * e.line + o) (BitVec.ofNat 8 (e.get o 1)) else m)
      e n (o + 1)

/-- One granule of a line written back: raced granules are withheld when asked, or stand (R327). Gives the
state and the raced granules. -/
def State.writeBackGranule (s : State) (c : CoreId) (withhold : Bool) (e : L1Line) (i : Nat) (r : List Nat) :
    State × List Nat :=
  if bits e.dirty.toNat (16 * i + 15) (16 * i) = 0 then (s, r)
  else
    let g := 8 * e.line + i
    let (u, v) := Tbl.get (0, []) e.wr i
    let raced := s.raceWrite u v false g
    if raced && withhold then (s, r ++ [g])
    else
      let s := { s with mem := copyDirty s.mem e 16 (16 * i) }
      let s := (s.noteWrite (whoOf c u (s.core c).ctx v) false g).forgetSyncs (16 * g) 16 (some c)
      (s, if raced then r ++ [g] else r)

/-- Bits of the dirty mask of some granules. -/
def granuleMask (e : L1Line) (r : List Nat) : Nat :=
  (r.filter fun g => g / 8 == e.line).foldl (fun m g => m ||| (2 ^ 16 - 1) * 2 ^ (16 * (g % 8))) 0

/-- A request slot of a core is held until its reply comes, by an access that takes effect at once (R164, log 8). -/
def State.holdSlot (s : State) (c : CoreId) : State :=
  let (d, s) := s.takeDelay Config.guideSlice
  s.onCore c fun k => { k with
    slotsHeld := (s.now + Nat.max d (4 * k.cl)) :: k.slotsHeld.filter fun t => decide (s.now < t) }

/-- A dirty line written back: the slice takes its data and version, the L1 keeps it clean but for what
is withheld (R268, R320, R327, R166). -/
def State.writeBackLine (s : State) (c : CoreId) (withhold : Bool) (e : L1Line) : State × List Nat :=
  if e.dirty = 0 then (s, [])
  else
    let (s, r) := (upto 8).foldl (fun (p : State × List Nat) i => p.1.writeBackGranule c withhold e i p.2) (s, [])
    let kept := if withhold then e.dirty &&& BitVec.ofNat 128 (granuleMask e r) else 0
    let s := ((s.pastSlice e.line (some (s.core c).ctx)).bumpVersion e.line (some (s.core c).ctx)).holdSlot c
    let s := if e.poison then { s with poison := Tbl.put false s.poison e.line true } else s
    (s.onCore c fun k => { k with l1 := k.l1.map fun x =>
      if x.line = e.line then { x with dirty := kept, wr := if kept = 0 then [] else x.wr } else x }, r)

/-- Lines of a core's L1 written back, with the raced granules. -/
def State.writeBackLines (s : State) (c : CoreId) (withhold : Bool) (l : List L1Line) : State × List Nat :=
  l.foldl (fun (p : State × List Nat) e => let (s, r) := p.1.writeBackLine c withhold e; (s, p.2 ++ r)) (s, [])

/-- Races that stand are raised at the core's next acquire or release (R327). -/
def State.addLate (s : State) (c : CoreId) (r : List Nat) : State :=
  if r = [] then s else s.onCore c fun k => { k with late := k.late ++ r.map fun g => (.mmrace, raceAddr g) }

/-- A line written back by eviction, wb, inv or a slice operation of the core: races stand (R327). -/
def State.flushLine (s : State) (c : CoreId) (line : Nat) : State :=
  match (s.core c).l1Find line with
  | some e => let (s, r) := s.writeBackLine c false e; s.addLate c r
  | none => s

/-- A line written back and removed (R270). -/
def State.purgeLine (s : State) (c : CoreId) (line : Nat) : State :=
  (s.flushLine c line).onCore c fun k => k.l1Drop line

/-- An eager release: every dirty line written back; raced granules withheld or standing (R321, R327). -/
def State.writeBackAll (s : State) (c : CoreId) (withhold : Bool) : State × List Nat :=
  s.writeBackLines c withhold (s.core c).l1

/-- An acquire discards every clean line; dirty lines are kept, of which every byte that is not dirty is read afresh
(R316, R323, R329, log 39). -/
def State.selfInvalidate (s : State) (c : CoreId) : State :=
  s.onCore c fun k => { k with
    l1 := (k.l1.filter fun e => e.dirty != 0).map fun e => { e with stale := ~~~e.dirty } }

/-- A pull: a core writes back its lines dirtied before epoch m (R322). -/
def State.pull (s : State) (k : CoreId) (m : Nat) : State :=
  let (s, r) := s.writeBackLines k false ((s.core k).l1.filter fun e => decide (e.epoch < m))
  s.addLate k r

/-- The marker of a line calls for a pull before an access of another core for which its scope holds
(R322). -/
def State.servePull (s : State) (line : Nat) (c : CoreId) : State :=
  match s.sline line with
  | some l =>
    match l.marker with
    | some m =>
      if m.core ≠ c ∧ scopeHolds m.scope c m.core then
        let s := s.pull m.core m.epoch
        match s.sline line with
        | some l => s.setSline line (some { l with marker := none })
        | none => s
      else s
    | none => s
  | none => s

/-- Lines of a set, by number, with what the slice holds. -/
def State.setLines (s : State) (key : Nat) : List (Nat × SLine) :=
  s.slines.filterMap fun e => match e.2 with
    | some l => if setKey e.1 = key then some (e.1, l) else none
    | none => none

/-- The least recently used unlocked line of a set. -/
def lruLine : List (Nat × SLine) → Option (Nat × SLine)
  | [] => none
  | e :: r => match lruLine r with
    | none => if e.2.holders = [] then some e else none
    | some f => if e.2.holders = [] ∧ e.2.used < f.2.used then some e else some f

/-- A dirty line goes to its controller, with its partner when that line is resident (R398, R380). -/
def State.sendLine (s : State) (line : Nat) (x : Option CtxId) : State :=
  match s.sline (line ^^^ 1) with
  | some p => if p.vacant then s.sendPart line x
      else (s.setSline (line ^^^ 1) (some { p with dirty := false })).sendBlock (line / 2) x
  | none => s.sendPart line x

/-- A slice evicts a line: the marker's pull is served first, and the marker leaves with it (R322). -/
def State.evictSline (s : State) (line : Nat) (l : SLine) : State :=
  let s := match l.marker with | some m => s.pull m.core m.epoch | none => s
  let s := if l.dirty then s.sendLine line l.lastCtx else s
  s.setSline line none

/-- A line brought into its home slice, or used there: fills evict the least recently used unlocked line of
a full set (R266, R268). -/
def State.sliceTouch (s : State) (line : Nat) (x : Option CtxId) : State :=
  let s := s.wakeFor line
  match s.sline line with
  | some l =>
    if !l.vacant then s.setSline line (some { l with used := s.now })
    else
      let v := Tbl.get 0 s.setCtr (setKey line) + 1
      ({ s with setCtr := Tbl.put 0 s.setCtr (setKey line) v }.setSline line
        (some { l with version := v, used := s.now, vacant := false })).countRead line x
  | none =>
    let key := setKey line
    let s := if 16 ≤ (s.setLines key).length then
        match lruLine (s.setLines key) with
        | some (n, l) => s.evictSline n l
        | none => s
      else s
    let v := Tbl.get 0 s.setCtr key + 1
    let s := { s with setCtr := Tbl.put 0 s.setCtr key v }
    (s.setSline line (some ⟨v, false, none, [], s.now, none, false⟩)).countRead line x

/-! ### Fills and accesses through the L1 -/

/-- The line an L1 set gives up for a new one (R154). -/
def Core.l1Victim (k : Core) (line : Nat) : Option L1Line :=
  let l := k.l1.filter fun e => e.line % 128 == line % 128
  if l.length < 4 then none else l.getLast?

/-- A line filled into a core's L1 from its slice, or the discarded bytes of one that it holds; some granules of it
are read (R154, R322, R325). Gives whether the read races. -/
def State.l1Fill (s : State) (w : Who) (line : Nat) (reads : List Nat) : State × Bool :=
  let s := (s.servePull line w.core).sliceTouch line (some w.ctx)
  let raced := reads.any fun g => s.raceRead w.uid w.vc false g
  let s := reads.foldl (fun s g => s.noteRead w false g) s
  let v := s.mem.read (128 * line) 128
  match (s.core w.core).l1Find line with
  | some e =>
    let e : L1Line := { e.refresh v with poison := e.poison || Tbl.get false s.poison line }
    (s.onCore w.core fun k => k.l1Touch e, raced)
  | none =>
    let s := match (s.core w.core).l1Victim line with
      | some o => s.purgeLine w.core o.line
      | none => s
    let e : L1Line := ⟨line, BitVec.ofNat 1024 (s.mem.read (128 * line) 128), 0, (s.core w.core).epoch,
      Tbl.get false s.poison line, 0, []⟩
    (s.onCore w.core fun k => k.l1Touch e, raced)

/-- A read of n bytes within a line through a core's L1: value, and ECCUNC or MMRACE of the reply
(R162, R166, R325). -/
def State.readThrough (s : State) (w : Who) (a n : Nat) : State × Nat × Option Cause :=
  let line := lineOf a
  let fill : State × Nat × Option Cause :=
    let g := granuleOf a
    let gs := (upto (granuleOf (a + n - 1) + 1 - g)).map (g + ·)
    let (s, raced) := s.l1Fill w line gs
    match (s.core w.core).l1Find line with
    | some e => (s, e.get (a % 128) n, if e.poison then some .eccunc else if raced then some .mmrace else none)
    | none => (s, 0, none)
  match (s.core w.core).l1Find line with
  | some e =>
    if e.fresh (a % 128) n then
      (s.onCore w.core fun k => k.l1Touch e, e.get (a % 128) n, if e.poison then some .eccunc else none)
    else fill
  | none => fill

/-- Bytes stored into granule parts of a line. -/
def L1Line.putAll (e : L1Line) (o v epoch : Nat) (w : Who) : Nat → L1Line
  | 0 => e
  | n + 1 => (L1Line.putAll e o v epoch w n).put (o + n) 1 (getBytes v n 1) epoch w

/-- A write of n bytes within a line through a core's L1, of a row of a tile store (R154, R190, R320). -/
def State.writeRow (s : State) (w : Who) (a n v : Nat) : State :=
  let line := lineOf a
  let s := if (s.core w.core).l1Has a n then s else (s.l1Fill w line []).1
  match (s.core w.core).l1Find line with
  | some e => s.onCore w.core fun k => k.l1Touch (e.putAll (a % 128) v k.epoch w n)
  | none => s

/-- What a stopped tile store would put back, but for n bytes that the strand has written since by other means than
its tile stores, which go in turn (R191). -/
def trimUndo (a n : Nat) (u : Nat × Nat × Nat × Nat) : List (Nat × Nat × Nat × Nat) :=
  let (r, b, m, v) := u
  if a + n ≤ b ∨ b + m ≤ a then [u]
  else (if b < a then [(r, b, a - b, v % 2 ^ (8 * (a - b)))] else [])
    ++ (if a + n < b + m then [(r, a + n, b + m - (a + n), v / 2 ^ (8 * (a + n - b)))] else [])

/-- The strand of a core has written n bytes of memory: a store in flight no longer takes them back (log 14). -/
def Core.wrote (k : Core) (a n : Nat) : Core :=
  if k.mx.xfer.isEmpty then k
  else { k with mx := { k.mx with xfer := k.mx.xfer.map fun o => { o with undo := o.undo.flatMap (trimUndo a n) } } }

/-- A write of n bytes within a line through a core's L1 (R154, R320). -/
def State.writeThrough (s : State) (w : Who) (a n v : Nat) : State :=
  (s.writeRow w a n v).onCore w.core fun k => k.wrote a n

/-! ### Accesses at the slice -/

/-- The releases whose values n bytes hold (R315). -/
def State.msgsAt (s : State) (a n : Nat) : List SyncMsg :=
  (s.syncs.flatMap fun e => if a ≤ e.1 && e.1 < a + n then e.2 else []).eraseDups

/-- The releases an acquire that reads n bytes synchronises with (R315). -/
def State.msgsFor (s : State) (a n : Nat) (c : CoreId) (sc : Sc) : List SyncMsg :=
  (s.msgsAt a n).filter fun m => scopeHolds sc c m.core && scopeHolds m.scope c m.core

/-- What those releases pass on. -/
def msgsVc (l : List SyncMsg) : Vc := l.foldl (fun v m => vcJoin v m.vc) []

/-- Releases written at n bytes; a slice operation keeps the earlier ones (R315). -/
def State.noteRelease (s : State) (a n : Nat) (m : List SyncMsg) (keep : Bool) : State :=
  if m = [] then s
  else (upto n).foldl (fun s i =>
    let l := if keep then Tbl.get [] s.syncs (a + i) else []
    { s with syncs := Tbl.put [] s.syncs (a + i) (m ++ l) }) s

/-- The wider of two scopes. -/
def scWidest (a b : Sc) : Sc :=
  match a, b with
  | .sys, _ | _, .sys => .sys
  | .die, _ | _, .die => .die
  | .clu, _ | _, .clu => .clu
  | .core, .core => .core

/-- A marker set on a line by a lazy release; another core's marker is served first (R322). The core's own earlier
marker may stand for another variable of the line, so the new one keeps its scope where that is wider: R316 would not
hold otherwise (log 51). -/
def State.setMarker (s : State) (line : Nat) (m : Marker) : State :=
  let old := (s.sline line).bind (·.marker)
  let s := match old with
    | some o => if o.core ≠ m.core then s.pull o.core o.epoch else s
    | none => s
  let m : Marker := match old with
    | some o => if o.core = m.core then { m with scope := scWidest m.scope o.scope } else m
    | none => m
  match s.sline line with
  | some l => s.setSline line (some { l with marker := some m })
  | none => s

/-- n bytes written at the slice by a strand, as a store-release or slice operation does: gives whether
the write races, in which case it stands (R325, R327). -/
def State.writeAtSlice (s : State) (w : Who) (sliceOp : Bool) (a n v : Nat) : State × Bool :=
  let g := granuleOf a
  let raced := s.raceWrite w.uid w.vc sliceOp g
  let s := (s.noteWrite w sliceOp g)
  let s := if sliceOp then s else s.forgetSyncs a n none
  ((({ s with mem := s.mem.write a n v }.bumpVersion (lineOf a) (some w.ctx)).onCore w.core fun k => k.wrote a n), raced)

/-- The blocks of a write of n bytes go to their controllers or over their link, each in one request (R398, R399). -/
def State.codeBlocks (s : State) (a n : Nat) : State :=
  (upto ((a + n + 255) / 256 - a / 256)).foldl (fun s i =>
    let k := a / 256 + i
    s.sendBytes k (Nat.min (a + n) (256 * k + 256) - Nat.max a (256 * k)) none) s

/-- Bytes of memory have been written past the cores: races are not tracked, blocks are coded, the house is charged, and
the lines have new versions (R268, R314, R329, R380, R398). -/
def State.written (s : State) (a n : Nat) : State :=
  let s := (s.forgetSyncs a n none).codeBlocks a n
  (upto ((a + n + 127) / 128 - a / 128)).foldl (fun s i => s.bumpVersion (a / 128 + i) none) s

/-- What an operation has moved since a state is charged to the context that asked for it, not to the house (R380). -/
def State.chargedTo (t s : State) (x : CtxId) : State :=
  let u : State := { t with die := { t.die with houseBytes := s.die.houseBytes, houseLink := s.die.houseLink } }
  (u.countGddr (some x) (t.die.houseBytes - s.die.houseBytes)).countLink (some x) (t.die.houseLink - s.die.houseLink)

/-- n bytes used at their slices for a context: a line that is not there is read (R268, R380). -/
def State.touchBytes (s : State) (x : CtxId) (a n : Nat) : State :=
  (upto ((a + n + 127) / 128 - a / 128)).foldl (fun s i => s.sliceTouch (a / 128 + i) (some x)) s

/-- Bytes written at the slices by the die or an engine that has no strand (R268, R314, R329). -/
def State.writeDie (s : State) (a n v : Nat) : State := { s with mem := s.mem.write a n v }.written a n

/-! ### Deferred reports (R166, R174, R191, R220, R327) -/

/-- The state once a report is raised. -/
def State.applyReport (s : State) (r : Report) : State :=
  match r with
  | .writeBacks => (s.writeBackAll s.cur true).1
  | .late => s.onMe fun k => { k with late := k.late.tail }
  | .reg => s.onMe fun k =>
      match k.bad.find? fun b => !b.reported with
      | some b =>
        if b.reg = noReg then { k with bad := k.bad.erase b }
        else { k with bad := k.bad.map fun x => if x.reg = b.reg then { x with reported := true } else x }
      | none => k
  | .copy => s.onMe fun k => { k with cp := { k.cp with err := none } }
  | .gather => s.onMe fun k => { k with ga := { k.ga with err := none } }
  | .matrix => s.onMe fun k => { k with mx := { k.mx with err := none } }
  | .sedge => s.onMe fun k => { k with sg := { k.sg with err := none } }
  | .drops => s.onCluster (clusterOf s.cur) fun c => { c with hedge := { c.hedge with drops := 0 } }
  | .nothing => s.takeFree.2
  | .named l => s.onMe fun k =>
      { k with bad := k.bad.map fun x => if l.contains x.reg.toNat then { x with reported := true } else x }

/-- What the fault of a read reports: a poisoned register, which no release reports again, or the failed pass
behind an empty q2 (R166, R220). -/
def State.reportRead (s : State) (i : Instr) : State :=
  match i.src? with
  | some (.head n) => (match s.head n with
      | .empty (.fault ..) => if n.val = 2 then s.applyReport .sedge else s
      | _ => s)
  | some (.reg n) => s.onMe fun k =>
      let l := groupNames k.vrb k.prb n.toNat i.srcCount
      match k.bad.find? fun b => l.contains b.reg.toNat with
      | some b => { k with bad := k.bad.map fun x => if x.reg = b.reg then { x with reported := true } else x }
      | none => k
  | _ => s

/-- The report that falls on an acquire or a release (rel: also YIELD, WAIT and END); none lets the
instruction go on. A bundle re-entered by TRET reports no register (R166). -/
def Core.pendingReport (k : Core) (rel : Bool) : Option (Cause × W64 × Report) :=
  match k.late with
  | (c, a) :: _ => some (c, a, .late)
  | [] =>
    if !rel then none
    else match (if k.bs.quiet then none else k.bad.find? fun b => !b.reported) with
      | some b => some (b.cause, b.va, .reg)
      | none => match k.cp.err with
        | some (c, a) => some (c, a, .copy)
        | none => match k.ga.err with
          | some (c, a) => some (c, a, .gather)
          | none => match k.mx.err with
            | some (c, a) => some (c, a, .matrix)
            | none => k.sg.err.map fun e => (e.1, e.2, .sedge)

/-- A report of an engine (R174, R191, R220). -/
def Report.engine : Report → Bool
  | .copy | .gather | .matrix | .sedge => true
  | _ => false

/-- Continues unless a report falls on the slot. -/
def reportFirst (s : State) (rel : Bool) (f : Commit) : Commit :=
  match s.me.pendingReport rel with
  | some (c, a, r) => if r.engine then .late c a r else .early c a r
  | none => f

/-- Continues unless the trigger's engine has a failure to report (R174, R179, R191, R220). -/
def engineFirst (e : Option (Cause × W64)) (r : Report) (f : Commit) : Commit :=
  match e with
  | some (c, a) => .late c a r
  | none => f

/-! ### Soft errors and sensors (R288, R383, R384, R386; log 29, log 30) -/

def markBad (l : List QEntry) (i : Nat) : List QEntry :=
  (upto l.length).zipWith (fun j e => if j = i then { e with bad := true } else e) l

/-- Entry i of a pipe buffer meets the error. -/
def Pipe.markBad (p : Pipe) (i : Nat) : Pipe :=
  { p with entries := (Machine.markBad (p.entries.map (·.1)) i).zip (p.entries.map (·.2)) }

/-- The junction temperature of a trip, in degrees (R386). -/
def tripAt (i : Fin 3) : Nat := if i = 0 then 95 else if i = 1 then 105 else 115

/-- A reading of the sensors: what it raises or clears is due at once (R386). -/
def State.senseHeat (s : State) (temp : BitVec 8) (hot : List ClusterId) : State :=
  let s := { s with die := { s.die with junction := temp.toNat, hot := hot } }
  let on (s : State) (n : Nat) (i : Instr) : State := if n ≤ temp.toNat then s.schedule s.now i else s
  let s := on (on (on s (tripAt 0) (.thermwarn (hot.headD 0) temp)) (tripAt 1) .emergencySave) (tripAt 2) .railCut
  if temp.toNat + 5 ≤ tripAt 2 then s.schedule s.now (.thermalTripClear temp) else s

/-- The host or a peer reads n bytes of device memory, at their home slices: the house pays (R329, R380, R396). -/
def State.hostReads (s : State) (a n : Nat) : State :=
  let s := (upto ((a + n + 127) / 128 - a / 128)).foldl (fun s i =>
    if inTagRegion (128 * (a / 128 + i)) then s else s.sliceTouch (a / 128 + i) none) s
  s.countLink none n

/-- A soft error strikes, the host reads memory, or the sensors are read. -/
def State.stimulate (s : State) (e : Stimulus) : State :=
  match e with
  | .corrected k => s.onCluster k fun c => { c with errCount := c.errCount + 1 }
  | .line n => { s with poison := Tbl.put false s.poison n true }
  | .l1 c n => s.onCore c fun k => { k with l1 := k.l1.map fun e => if e.line = n then { e with poison := true } else e }
  | .reg c r => s.onCore c fun k => if k.run.isSome then
      { k with bad := k.bad.filter (fun b => b.reg != r) ++ [⟨r, .eccunc, 0, false⟩] } else k
  | .spad c a => s.onCore c fun k => { k with spadBad := a :: k.spadBad }
  | .hostRead a n => s.hostReads a n
  | .heat t hot => s.senseHeat t hot
  | .head c n i =>
    if n.val = 0 then s.onCore c fun k => { k with q0 := markBad k.q0 i }
    else if n.val = 1 then s.onCore c fun k => { k with q1 := markBad k.q1 i }
    else if n.val = 2 then s.onCore c fun k => { k with q2 := markBad k.q2 i }
    else if n.val = 3 then s.onCore c fun k => { k with q3 := markBad k.q3 i }
    else match (s.core c).inPipe[n.val - 4]?.join with
      | none => s
      | some j => s.onCluster (clusterOf c) fun q => { q with
          pipes := Vector.ofFn fun m => if m.val = j then (q.pipes[m]).map (·.markBad i) else q.pipes[m] }

/-- The soft errors and readings whose time has come. -/
def State.takeStimuli (s : State) : State :=
  match s.stimuli with
  | [] => s
  | l => (l.filter fun e => decide (e.1 ≤ s.now)).foldl (fun s e => s.stimulate e.2)
      { s with stimuli := l.filter fun e => decide (s.now < e.1) }

/-! ### Scratchpad (R151) -/

def Core.spadRead (k : Core) (a n : Nat) : Nat := k.spad.read a n

/-- The first control cycle of a core that begins at a time or after it (R152). -/
def Core.slotCycle (k : Core) (t : Nat) : Nat :=
  if k.time ≤ t then k.time + ceilDiv (t - k.time) k.cl * k.cl else k.time - (k.time - t) / k.cl * k.cl

/-- Slot 3 of the bank of a scratchpad address is used in the first control cycle from time t on (R152). -/
def Core.takeSlot3 (k : Core) (t a : Nat) : Core :=
  { k with slot3 := (k.slotCycle t, a / 64 % 16) :: k.slot3.filter fun e => decide (Nat.min k.time t ≤ e.1) }

/-- Slot 3 of the bank of an address is in use in that control cycle. -/
def Core.slot3Used (k : Core) (t a : Nat) : Bool := k.slot3.any fun e => e.1 == k.slotCycle t && e.2 == a / 64 % 16

/-- Reads of a slot from scratchpad bytes with an uncorrectable soft error: the result it has set in flight is faulty
(R166, R384). -/
def Commit.spadFaulty (c : Commit) (s : State) (bad : Bool) (off : Nat) : Commit :=
  if !bad then c
  else match c with
    | .ok t => .ok (t.onMe fun k => { k with fl := k.fl.map fun f =>
        if s.nextId ≤ f.id then { f with bad := some .eccunc, va := Handle.va (spadHandle k.ctx) off } else f })
    | c => c

end Sys2Proof.Machine
end

