-- ==== Sys2Proof/Machine/Move.lean ====
section
/-! DEFINITION. How one slot runs, and the moves that start no operation: to registers, to operand and
`.to` ports, and null moves (R59 to R63, R65, R66, R90). -/

namespace Sys2Proof.Machine

/-- Total width of a narrow format (R33). -/
def fmtWidth (f : Fmt) : Nat := boolCode f.sgn + f.ew + f.mw

/-- Energy class of an MMAC by the configured formats (R90). -/
def mmacClass (k : Core) : Nat :=
  match k.mx.cfg with
  | some g => if fmtWidth g.fa ≤ 4 ∧ fmtWidth g.fb ≤ 4 then 13 else 12
  | none => 12

/-- Energy class of a slot (R90). -/
def slotClass (i : Instr) (k : Core) : Nat :=
  match i with
  | .nullMove .. => 0
  | .moveToRegister .. => 1
  | .operandPortWrite .. => 1
  | .push .. => 15
  | .mmac .. => mmacClass k
  | i => match i.trigger with
    | some t => triggerClass t.port t.fsel
    | none => 0

/-- The charge of a committing slot (R90, R256). -/
def State.chargeSlot (s : State) (i : Instr) : State :=
  s.chargeUnits s.cur (s.weight ⟨slotClass i s.me % 16, Nat.mod_lt _ (by decide)⟩)

/-- The value slot i moves: the one saved at the read phase, or read now (R65, R68). -/
def State.slotValue (s : State) (i : Instr) : ReadRes :=
  match s.me.bs.ops[s.me.bs.slot]?.join with
  | some v => .val v
  | none => s.readSource i

/-- The commit of slot i, its charge included (R65, R256). -/
def State.commitSlot (s : State) (i : Instr) (f : V512 → State → Commit) : Commit :=
  match s.slotValue i with
  | .val v => f v (s.chargeSlot i)
  | .freeze w => .freeze w
  | .fault c a => .raise c a

/-- A handle port holds the scratchpad handle. -/
def Core.portSpad (k : Core) (p : Port) : Bool :=
  match k.port p with
  | some v => Handle.isSpad (BitVec.ofNat 128 v.toNat)
  | none => false

/-- Triggers that make memory accesses: none through the scratchpad handle, nor vld and vst (R314, R350, R364);
TRET reads its image. -/
def Core.memTrigger (k : Core) (i : Instr) : Bool :=
  match i with
  | .ld .. | .st .. | .lda .. | .strl .. | .pf .. => !k.portSpad .lsH
  | .vgth mem _ | .vsct mem _ => mem && !k.portSpad .vxH
  | .mld .. | .mst .. => !k.portSpad .mxH
  | .capst .. | .tret .. => !k.portSpad .syH
  | .atom .. | .clrd .. | .cms .. | .lock .. | .unlock .. | .sgPass .. | .cpGo .. | .gaGth .. | .gaSct ..
  | .snap .. | .snfind .. | .kvadv .. | .kvpin .. => true
  | _ => false

/-- An acquire of the strand unit holds the strand's later memory accesses until its result arrives
(R350, R364). -/
def Core.acquireHolds (k : Core) (i : Instr) : Bool := k.memTrigger i && k.fl.any (·.acq)

/-- Triggers that access the scratchpad, but for load-acquires and store-releases. -/
def Core.spadTrigger (k : Core) (i : Instr) : Bool :=
  match i with
  | .ld .. | .st .. => k.portSpad .lsH
  | .vld .. | .vst .. | .mldc .. | .cpGo .. | .gaGth .. | .gaSct .. | .sgPass .. | .clrd .. | .cms .. => true
  | .vgth mem _ | .vsct mem _ => !mem || k.portSpad .vxH
  | .mld .. | .mst .. => k.portSpad .mxH
  | .capst .. | .tret .. => k.portSpad .syH
  | _ => false

/-- A load-acquire or store-release through the scratchpad handle still waits for its turn: later accesses to the
scratchpad come after it (R162, R317, log 41). -/
def State.spadHolds (s : State) (i : Instr) : Bool :=
  s.me.spadTrigger i && s.reqs.any fun q =>
    q.core == s.cur && q.held && (match q.kind with | .spad _ => true | _ => false)

/-- The core runs its cluster's phase strand in an active phase (R281). -/
def State.inPhase (s : State) : Bool :=
  let h := (s.cluster (clusterOf s.cur)).hedge
  h.active && h.strand == some s.cur

/-- Triggers that the phase strand may not commit (R281). -/
def State.phaseBars (s : State) (i : Instr) : Bool :=
  s.inPhase && (match i.unit? with
    | some .mx | some .sg | some .cp | some .ga | some .ls | some .tk => true
    | _ => false)

/-- An access of a slot is held: behind an acquire still to arrive, or behind an ordered access of the scratchpad. -/
def State.holds (s : State) (i : Instr) : Bool := s.me.acquireHolds i || s.spadHolds i

/-- What a slot that is held waits for. -/
def State.holdWait (s : State) (i : Instr) : Wait :=
  if s.me.acquireHolds i then s.waitFor (·.acq)
  else s.waitOn fun q => match q.kind with | .spad _ => true | _ => false

/-- What a slot's commit is barred by before its own meaning: a phase, an acquire still to arrive, or an ordered access
of the scratchpad still to be made. -/
def State.guardMove (s : State) (i : Instr) (c : Commit) : Commit :=
  if s.phaseBars i then .raise .illopd none
  else if s.holds i then .freeze (s.holdWait i) else c

/-- One move as a step of the executing core: its commit, its freeze, or its fault (R65, R66). -/
def runMove (i : Instr) (f : V512 → State → Commit) (s : State) : Host.Outcome State Fault Refusal :=
  match s.slotValue i with
  | .freeze w => .next (s.freeze [w] s.me.bs.slot)
  | .fault c a => .next ((s.reportRead i).fault c a s.me.bs.slot false)
  | .val v =>
    match s.guardMove i (f v (s.chargeSlot i)) with
    | .ok t => .next t.flushDeferred
    | .early c a r => .next ((s.applyReport r).fault c (some a) s.me.bs.slot false)
    | .late c a r => .next ((s.applyReport r).fault c (some a) s.me.bs.slot true)
    | .raise c a => .next (s.fault c a s.me.bs.slot true)
    | .after t c a => .next (t.fault c (some a) (s.me.bs.slot + 1) true)
    | .freeze w => .next (s.freeze [w] s.me.bs.slot)

/-- Registers a move to a register writes, by class and destination (R60). -/
def moveDest (src : Src) (dst : RegName) : Nat :=
  match src.groupTo dst with
  | some (_, n) => n
  | none => 1

/-- A move to a register: groups as R60, V forced to 0 where an h register is written from g or o
registers (R156); it waits for a result pending in the register (R59). -/
def commitMoveToRegister (src : Src) (dst : RegName) (v : V512) (s : State) : Commit :=
  let k := s.me
  let n := moveDest src dst
  let l := groupNames k.vrb k.prb dst.toNat n
  if l.any k.busyReg then .freeze (s.waitFor fun f => l.any fun n => f.names.contains n)
  else
    let x := if nameSpace dst.toNat = .h ∧ src.cls = .s
      then (Handle.invalid (BitVec.ofNat 128 v.toNat)).toNat else v.toNat
    .ok (s.onMe fun k => k.writeRegs k.vrb k.prb dst.toNat n x)

/-- A value a `.to` port accepts: bits [63:8] zero and a register name R59 accepts (R62, R19). A name in m or a is refused
here too, at the move to the port: R89 raises ILLOPD for it without saying at which move (log 16). -/
def toValueOk (v : Nat) (inUi : Bool) : Bool :=
  decide (v < 256) &&
  (match nameSpace v with
    | .sp | .un | .m | .a => false
    | .x => inUi
    | _ => true)

/-- A write of an operand or `.to` port (R61, R62). A scale port waits for a scale load of its register
in no way: the load's latency is exposed (R192). -/
def commitOperandPortWrite (p : Port) (v : V512) (s : State) : Commit :=
  if p.isTo && !toValueOk v.toNat s.me.ui.active then .raise .illopd none
  else .ok (s.onMe fun k => k.setPort p v)

/-- A null move does nothing (R63). -/
def commitNullMove (_v : V512) (s : State) : Commit := .ok s

def execMoveToRegister (src : Src) (dst : RegName) (s : State) : Host.Outcome State Fault Refusal :=
  runMove (.moveToRegister src dst) (commitMoveToRegister src dst) s

def execOperandPortWrite (src : Src) (p : Port) (s : State) : Host.Outcome State Fault Refusal :=
  runMove (.operandPortWrite src p) (commitOperandPortWrite p) s

def execNullMove (ssp : BitVec 2) (v : BitVec 8) (k : Bool) (f : BitVec 4) (s : State) :
    Host.Outcome State Fault Refusal :=
  runMove (.nullMove ssp v k f) commitNullMove s

end Sys2Proof.Machine
end

