-- ==== Sys2Proof/Machine/LoadStore.lean ====
section
/-! DEFINITION. The scalar load/store unit, its requests, and what the slices do with them (R95, R96,
R153 to R169, R270 to R274, R317 to R323). -/

namespace Sys2Proof.Machine

/-! ### The requests of a core (R164, R318) -/

def State.req (s : State) (id : Nat) : Option Req := s.reqs.find? fun r => r.id == id

def State.setReq (s : State) (r : Req) : State := { s with reqs := s.reqs.map fun x => if x.id = r.id then r else x }

def State.dropReq (s : State) (id : Nat) : State := { s with reqs := s.reqs.filter fun r => r.id != id }

/-- Acquires: no later access of the strand leaves before they are delivered (R317, R319). -/
def ReqKind.isAcq : ReqKind → Bool
  | .lda _ => true
  | .atom _ _ _ ord _ => ord % 2 == 1
  | .cms _ _ _ ord _ => ord % 2 == 1
  | .spad acq => acq
  | _ => false

/-- Releases: they leave after everything before them has completed (R317, R319, R321). -/
def ReqKind.isRel : ReqKind → Bool
  | .strl _ => true
  | .atom _ _ _ ord _ => decide (2 ≤ ord)
  | .cms _ _ _ ord _ => decide (2 ≤ ord)
  | .tk _ => true
  | .spad acq => !acq
  | _ => false

/-- Requests made through the L1 (R154). -/
def ReqKind.cached : ReqKind → Bool
  | .load _ | .lane _ | .store | .prefetch false => true
  | .lda .core => true
  | .strl .core => true
  | _ => false

/-- Whether a request is served as a slice operation (R270). -/
def ReqKind.sliceOp : ReqKind → Bool
  | .atom .. | .clrd _ | .cms .. | .lock | .unlock => true
  | _ => false

/-- Every grammar read of a pass has its reply: its lines have all arrived, or it reads no more of them (R317, R328). -/
def Pass.readsDone (p : Pass) : Bool :=
  !p.pend && p.flying.isEmpty && (p.saved.isEmpty || p.fail.isSome || p.finish.isSome)

/-- No grammar read of a pass triggered before a request is outstanding (R317, R328). -/
def Core.passQuiet (k : Core) (id : Nat) : Bool :=
  match k.sg.pass with
  | some p => decide (id < p.since) || p.readsDone
  | none => true

/-- No copy, gather or tile transfer of the core is outstanding (R317). -/
def Core.movesQuiet (k : Core) : Bool :=
  k.cp.active.isNone && k.cp.pending.isNone && k.ga.ops.isEmpty && k.mx.xfer.isEmpty

/-- No gather or tile load of the core is outstanding (R317). -/
def Core.loadsQuiet (k : Core) : Bool :=
  k.ga.ops.all (fun o => o.rows.all fun r => !r.load) && k.mx.xfer.all (fun o => !o.load)

/-- No access of the core's engines is outstanding (R317, R328). -/
def Core.enginesQuiet (k : Core) : Bool :=
  k.movesQuiet && (match k.sg.pass with | some p => p.readsDone | none => true)

/-- Bytes of memory a request reads or writes: first and number (R162, R273, R274). -/
def Req.span (r : Req) : Nat × Nat :=
  match r.kind with
  | .clrd _ => (128 * lineOf r.pa, 128)
  | .prefetch _ | .lock | .unlock | .tk _ => (r.pa, 0)
  | _ => (r.pa, r.n)

/-- Two requests have a byte in common. -/
def Req.meets (q r : Req) : Bool :=
  decide (q.span.1 < r.span.1 + r.span.2) && decide (r.span.1 < q.span.1 + q.span.2)

/-- Two requests have a line in common. -/
def Req.shareLine (q r : Req) : Bool :=
  decide (lineOf q.pa ≤ lineOf (r.pa + r.n - 1)) && decide (lineOf r.pa ≤ lineOf (q.pa + q.n - 1))

/-- Requests that write memory (R314). -/
def ReqKind.writes : ReqKind → Bool
  | .store | .strl _ | .atom .. | .cms .. => true
  | _ => false

/-- A pass triggered before a request has still to read its grammar, as if at its trigger (R223). -/
def State.passWaits (s : State) (r : Req) : Bool :=
  match (s.core r.core).sg.pass with
  | some p => p.pend && decide (p.since ≤ r.id)
  | none => false

/-- A held request may leave its core: what program order places before it has been performed, and no older one to
the same bytes is held (R162, R317 to R319). -/
def State.mayLeave (s : State) (r : Req) : Bool :=
  let older := (s.reqsOf r.core).filter fun q => decide (q.id < r.id)
  decide (r.start ≤ s.now) && older.all (fun q => !(q.held && q.meets r)) && !(r.kind.writes && s.passWaits r) &&
  (if r.kind.isRel then older.isEmpty && (s.core r.core).movesQuiet && (s.core r.core).passQuiet r.id
  else if r.kind.isAcq then older.all fun q => !q.kind.isAcq && !q.kind.isRel
  else older.all fun q => !q.kind.isAcq)

/-- Older requests of the core to the same line are still to be served. -/
def State.lineBusy (s : State) (r : Req) : Bool :=
  (s.reqsOf r.core).any fun q => decide (q.id < r.id) && !q.served && q.shareLine r

/-- The step that serves a request at its slice. -/
def serveStep (r : Req) : Instr := if r.kind.sliceOp then .sliceOpPerform r.id else .sliceAccessServe r.id

/-- A request travels to its slice; requests of a core to one line arrive in order (R162, R409). -/
def State.sendReq (s : State) (r : Req) : State :=
  let (d, s) := s.takeDelay Config.guideSlice
  let prior := ((s.reqsOf r.core).filter fun q => decide (q.id < r.id) && q.shareLine r).foldl
    (fun m q => Nat.max m q.due) 0
  let t := Nat.max (s.now + d) prior
  (s.setReq { r with held := false, start := s.now, due := t }).schedule t (serveStep r)

/-- The scope of a release. -/
def ReqKind.relScope : ReqKind → Sc
  | .strl sc => sc
  | .atom _ _ _ _ sc => sc
  | .cms _ _ _ _ sc => sc
  | _ => .core

/-- The release part of a request that leaves: the L1's epoch or its write-backs (R317, R321, R322). The value field
of a lazy release carries its marker's count. A write-back that races is withheld, and the request's own write with it,
which its cause then says (R327, log 17). -/
def State.openRelease (s : State) (r : Req) : State × Req :=
  if !r.kind.isRel then (s, r)
  else
    match r.kind.relScope with
    | .core => (s, r)
    | .sys =>
      let (s, g) := s.writeBackAll r.core true
      (s.addLate r.core g, if g = [] then r else { r with bad := some .mmrace })
    | _ =>
      let e := (s.core r.core).epoch + 1
      (s.onCore r.core fun k => { k with epoch := e }, { r with value := e })

/-- A reply comes no earlier than that of a hit (R162, R409). -/
def State.replyTime (s : State) (r : Req) (d : Nat) : Nat :=
  Nat.max (s.now + d) (r.start + 4 * (s.core r.core).cl)

/-- Marks a served request whose reply comes at time t. -/
def State.replyAt (s : State) (r : Req) (v : Nat) (bad : Option Cause) (t : Nat) : State :=
  (s.setReq { r with held := false, due := t, served := true, value := v, bad := bad }).schedule t
    (match r.kind with | .lane _ => .gatherLaneReply r.id | _ => .loadReply r.id)

/-- A request served now is replied to after an open time (R409). -/
def State.replyLater (s : State) (r : Req) (v : Nat) (bad : Option Cause) : State :=
  let (d, s) := s.takeDelay Config.guideSlice
  s.replyAt r v bad (s.replyTime r d)

/-- The strand that made a request, as the strand's accesses before it leave it (R315). -/
def Req.who (r : Req) : Who := whoOf r.core r.uid r.ctx r.vc

/-- The same with what acquires have passed on since the request was looked up. -/
def State.whoNow (s : State) (r : Req) : Who := match s.req r.id with | some q => q.who | none => r.who

/-- An acquire is performed: its strand has seen more, and so have the strand's later accesses that are still to be
performed (R315). -/
def State.acquireReq (s : State) (r : Req) (v : Vc) : State :=
  let s := s.acquireVc r.core v
  { s with reqs := s.reqs.map fun q =>
      if q.core = r.core ∧ q.uid = r.uid ∧ r.id ≤ q.id then { q with vc := vcJoin q.vc v } else q }

/-- The strand's last read has read from some releases (R315). -/
def State.readFrom (s : State) (r : Req) (l : List SyncMsg) : State :=
  s.onCore r.core fun k => { k with run := k.run.map fun q =>
    if q.lastRead = r.id then { q with readMsgs := l } else q }

/-- The releases that a request which writes memory passes on: its own, and the fences it is the first write after
(R315). -/
def State.relMsgs (s : State) (r : Req) : List SyncMsg :=
  (if r.kind.isRel then [⟨r.core, r.kind.relScope, (s.whoNow r).passes⟩] else []) ++ r.fence

/-- The write of a store-release at scope core, through the L1 (R317). -/
def State.coreStrl (s : State) (r : Req) : State :=
  ((s.writeThrough r.who r.pa r.n r.data).noteRelease r.pa r.n (s.relMsgs r) false).dropReq r.id

/-- The read of a load-acquire at scope core, through the L1: value and failure (R315, R317). -/
def State.coreLda (s : State) (r : Req) : State × Nat × Option Cause :=
  let s := (s.readFrom r (s.msgsAt r.pa r.n)).acquireReq r (msgsVc (s.msgsFor r.pa r.n r.core .core))
  s.readThrough (s.whoNow r) r.pa r.n

/-- The turn of an LDA or STRL through the scratchpad handle that had to wait: its access, the load's result 6 control
cycles later (R162, R317). -/
def State.spadTurn (s : State) (r : Req) (acq : Bool) : State :=
  let o := r.pa - 2 ^ 52
  let s := s.onCore r.core fun k => k.takeSlot3 s.now o
  if acq then
    (s.onCore r.core fun k => { k with fl := k.fl.map fun f =>
      if f.id = r.fid then { f with
          value := BitVec.ofNat 512 (k.spadRead o r.n)
          bad := if k.spadErr o r.n then some .eccunc else f.bad } else f }).replyAt r 0 none
      (s.now + 6 * (s.core r.core).cl)
  else (s.onCore r.core fun k => k.spadWrite o r.n r.data).dropReq r.id

/-- The lanes of memory gathers and scatters that the vector unit has still to issue follow one that leaves now, one a
control cycle (R149). -/
def State.spaceLanes (s : State) (c : CoreId) : State :=
  let l := (s.reqsOf c).filter fun q => q.lane && q.held
  (l.zip (upto l.length)).foldl (fun s e =>
    let t := s.now + (e.2 + 1) * (s.core c).cl
    if e.1.start < t then (s.setReq { e.1 with start := t }).schedule t (.sliceAccessServe e.1.id) else s) s

/-- A memory request leaves its core: a hit in the L1 is done at once, its reply 4 control cycles later (R162);
any other travels to its slice. A prefetch into the slice always does (R163). -/
def State.issueMem (s : State) (r : Req) : State :=
  let (s, r) := s.openRelease r
  let k := s.core r.core
  if r.kind.cached && k.l1Has r.pa r.n && !s.lineBusy r then
    match r.kind with
    | .store => (s.writeThrough r.who r.pa r.n r.data).dropReq r.id
    | .strl _ => s.coreStrl r
    | .prefetch _ => s.dropReq r.id
    | .lda _ =>
      let (s, v, b) := s.coreLda r
      s.replyAt r v b (s.now + 4 * k.cl)
    | _ =>
      let (s, v, b) := s.readThrough r.who r.pa r.n
      s.replyAt r v b (s.now + 4 * k.cl)
  else s.sendReq r

/-- A request's turn comes. -/
def State.issue (s : State) (r : Req) : State :=
  match r.kind with
  | .spad acq => s.spadTurn r acq
  | _ => if r.lane then (s.issueMem { r with lane := false }).spaceLanes r.core else s.issueMem r

/-- Held requests of a core that may now leave do so, oldest first. Releases at tables are left to their
units. -/
def State.lsAdvance (s : State) (c : CoreId) : State :=
  (s.reqsOf c).foldl (fun s r =>
    match s.req r.id with
    | some r =>
      if r.held && s.mayLeave r then
        match r.kind with
        | .tk _ => s.schedule s.now (.tkResultDelivery c)
        | _ => s.issue r
      else s
    | none => s) s

/-- Requests that read memory (R314). -/
def ReqKind.reads : ReqKind → Bool
  | .load _ | .lane _ | .lda _ | .atom .. | .clrd _ | .cms .. => true
  | _ => false

/-- The request takes its place in program order: the read it is, and the release fences whose first write it is
(R315). -/
def State.noteOrder (s : State) (kind : ReqKind) (id : Nat) : State :=
  s.onMe fun k => { k with run := k.run.map fun r =>
    let r := if kind.reads then { r with lastRead := id, readMsgs := [] } else r
    if kind.writes then { r with relFence := [] } else r }

/-- The release fences of the executing strand whose first write is still to come. -/
def State.openFences (s : State) : List SyncMsg := match s.me.run with | some r => r.relFence | none => []

/-- A request of the executing core takes its place: it counts as a release where it is one (R315, R318). -/
def State.addReq (s : State) (kind : ReqKind) (pa n data fid : Nat) (va : W64) (psz start : Nat) (lane : Bool) :
    Req × State :=
  let w := s.who s.cur
  let (id, s) := s.takeId
  let f := if kind.writes then s.openFences else []
  let r : Req := ⟨id, s.cur, w.uid, w.ctx, kind, pa, n, data, fid, w.vc, true, start, lane, 0, false, 0, none, va, psz, f⟩
  let s := ({ s with reqs := s.reqs ++ [r] } : State).noteOrder kind id
  (r, if kind.isRel then (s.releaseVc s.cur).2 else s)

/-- A request made by the executing core, to leave at a time: it leaves then where order allows, and else is held
(R318). -/
def State.makeReqAt (s : State) (kind : ReqKind) (pa n data fid : Nat) (va : W64) (psz start : Nat) (lane : Bool) :
    State :=
  let (r, s) := s.addReq kind pa n data fid va psz start lane
  if s.mayLeave r then
    match kind with
    | .tk _ => s.schedule s.now (.tkResultDelivery s.cur)
    | _ => s.issue r
  else if s.now < start then s.schedule start (.sliceAccessServe r.id) else s

/-- A request made by the executing core, to leave at once. -/
def State.makeReq (s : State) (kind : ReqKind) (pa n data fid : Nat) (va : W64) (psz : Nat) : State :=
  s.makeReqAt kind pa n data fid va psz s.now false

/-- When the vector unit may issue the first lane of a gather or scatter: after the lanes it has still to issue (R149). -/
def State.laneStart (s : State) : Nat :=
  (s.reqsOf s.cur).foldl (fun t q => if q.lane && q.held then Nat.max t (q.start + s.me.cl) else t) s.now

/-- A result whose delivery awaits a reply: identifier of the flight, and the state (R165). -/
def State.awaitReply (s : State) (cls : ResClass) (d : Option RegName) (u : FUnit) (va : W64) : Nat × State :=
  let (n, s) := s.takeId
  (n, s.onMe fun k => { k with fl := k.fl ++ [⟨n, u, cls, 0, d, k.vrb, k.prb, 0, none, 0, none, va, false, k.ui.active, false⟩] })

/-- Table accesses of tk and the places in order of scratchpad accesses take none of the request slots
(R164). -/
def ReqKind.takesSlot : ReqKind → Bool
  | .tk _ => false
  | .spad _ => false
  | _ => true

/-- Request slots that the engines of a core hold: copy lines, gather lanes, tile rows and grammar lines whose replies
are still to come; and those of accesses that take effect at once (R164, log 8). -/
def Core.engineSlots (k : Core) (now : Nat) : Nat :=
  (match k.cp.active with
    | some y => (y.lines.filter fun l => l.due.isSome).length + boolCode (y.record.isNone && decide (now < y.recUntil))
    | none => 0)
  + k.ga.ops.foldl (fun n o => o.rows.foldl (fun n r =>
      n + (r.lanes.filter fun l => l.due.any fun t => decide (now < t)).length) n) 0
  + (k.slotsHeld.filter fun t => decide (now < t)).length
  + k.mx.xfer.foldl (fun n o => if Handle.isSpad o.handle then n else n + o.out.length) 0
  + (match k.sg.pass with | some p => p.flying.length | none => 0)

/-- Request slots of a core that are taken (R164). -/
def State.slotsTaken (s : State) (c : CoreId) : Nat :=
  ((s.reqsOf c).filter fun r => r.kind.takesSlot).length + (s.core c).engineSlots s.now

/-- A core has not n request slots free (R164). -/
def State.noSlots (s : State) (c : CoreId) (n : Nat) : Bool := decide (512 < s.slotsTaken c + n)

/-- The executing core has not n of its 512 request slots free (R164). -/
def slotsFull (s : State) (n : Nat) : Bool := s.noSlots s.cur n

/-- The handle in ls.h and its check (R160); ILLOPD while it is unset. -/
def withHandle (s : State) (p : Port) (off n : Nat) (perm : Perm) (f : Handle → Commit) : Commit :=
  needPort s p fun hv =>
    let h : Handle := BitVec.ofNat 128 hv.toNat
    match checkHandle h s.me.ctx off n perm with
    | some c => .raise c none
    | none => f h

def szBytes : Sz → Nat | .b => 1 | .h => 2 | .w => 4 | .d => 8
def ldBytes : LdSz → Nat | .zx z => szBytes z | .bs => 1 | .hs => 2 | .ws => 4
def ldSigned : LdSz → Bool | .zx _ => false | _ => true

/-- An access of ls deferred behind the vector accesses of its bundle (R153). -/
def State.defer (s : State) (d : Deferred) : State :=
  s.onMe fun k => { k with bs := { k.bs with deferred := k.bs.deferred ++ [d] } }

/-- The access of an ls trigger that commits now, through the scratchpad handle. -/
def State.lsSlot3 (s : State) (a : Nat) : State := s.onMe fun k => k.takeSlot3 (k.time + k.cl) a

/-! ### Loads and stores (R162) -/

def commitLd (z : LdSz) (keep : Bool) (v : V512) (s : State) : Commit :=
  let off := sval v
  withHandle s .lsH off (ldBytes z) .r fun h =>
    withDest s .s keep .lsTo fun d =>
      if h.isSpad then
        let (_, s) := s.launchFlight .ls .s d 0 0 6
        .ok ((s.defer (.load (s.nextId - 1) off (ldBytes z) (ldSigned z))).lsSlot3 off)
      else if slotsFull s 1 then .freeze (s.waitOn fun r => r.kind.takesSlot)
      else
        let (fid, s) := s.awaitReply .s d .ls (h.va off)
        .ok (s.makeReq (.load (ldSigned z)) (h.pbase + off) (ldBytes z) 0 fid (h.va off) h.psz)

def commitSt (z : Sz) (v : V512) (s : State) : Commit :=
  needPort s .lsX fun x =>
    let off := sval x
    withHandle s .lsH off (szBytes z) .w fun h =>
      if h.isSpad then .ok ((s.defer (.store off (szBytes z) (sval v))).lsSlot3 off)
      else if slotsFull s 1 then .freeze (s.waitOn fun r => r.kind.takesSlot)
      else .ok (s.makeReq .store (h.pbase + off) (szBytes z) (sval v) 0 (h.va off) h.psz)

/-! ### Ordering triggers (R317 to R323) -/

/-- An LDA or STRL through the scratchpad handle takes its place among the strand's accesses (R317): where order
allows it is made with the scratchpad accesses of its bundle, and else it waits for its turn. No L1 or slice sees it;
its address lies above every physical one. -/
def State.spadOrder (s : State) (acq : Bool) (off n data fid : Nat) : State :=
  let (r, s) := s.addReq (.spad acq) (2 ^ 52 + off) n data fid (Handle.va (spadHandle s.me.ctx) off) 3 s.now false
  if !s.mayLeave r then s
  else if acq then
    ((s.defer (.load fid off n false)).lsSlot3 off).replyAt r 0 none (s.now + 6 * s.me.cl)
  else ((s.defer (.store off n data)).lsSlot3 off).dropReq r.id

def commitLda (z : Sz) (sc : Sc) (keep : Bool) (v : V512) (s : State) : Commit :=
  let off := sval v
  reportFirst s false <|
  withHandle s .lsH off (szBytes z) .r fun h =>
    withDest s .s keep .lsTo fun d =>
      if h.isSpad then
        let (fid, s) := s.awaitReply .s d .ls (h.va off)
        .ok (s.spadOrder true off (szBytes z) 0 fid)
      else if slotsFull s 1 then .freeze (s.waitOn fun r => r.kind.takesSlot)
      else
        let (fid, s) := s.awaitReply .s d .ls (h.va off)
        .ok (s.makeReq (.lda sc) (h.pbase + off) (szBytes z) 0 fid (h.va off) h.psz)

/-- Granules of n bytes at a physical address. -/
def granulesOf (pa n : Nat) : List Nat := (upto (granuleOf (pa + n - 1) - granuleOf pa + 1)).map (granuleOf pa + ·)

/-- Raced granules among the stores of the executing core that have not reached its L1. -/
def State.storeRaces (s : State) : List Nat :=
  (s.reqsOf s.cur).flatMap fun q =>
    if q.kind == .store then (granulesOf q.pa q.n).filter (s.raceWrite q.uid q.vc false) else []

/-- The race that an eager release of the executing core would carry now, of a dirty line or of a store on
its way to the L1 (R327). -/
def State.carriedRace (s : State) : Option W64 :=
  match (s.writeBackAll s.cur true).2 ++ s.storeRaces with
  | g :: _ => some (raceAddr g)
  | [] => none

/-- The race of the own write of a sys-scope release, where no earlier acquire of the strand is still to be
performed (R327). -/
def State.ownRace (s : State) (sliceOp : Bool) (pa n : Nat) : Option W64 :=
  if (s.reqsOf s.cur).any fun q => q.kind.isAcq then none
  else
    let w := s.who s.cur
    match (granulesOf pa n).filter (s.raceWrite w.uid w.vc sliceOp) with
    | g :: _ => some (raceAddr g)
    | [] => none

/-- The race a sys-scope release carries: of a dirty line, else of its own write (R327). -/
def State.releaseRace (s : State) (sliceOp : Bool) (pa n : Nat) : Option W64 :=
  match s.carriedRace with
  | some a => some a
  | none => s.ownRace sliceOp pa n

def commitStrl (z : Sz) (sc : Sc) (v : V512) (s : State) : Commit :=
  reportFirst s true <|
  needPort s .lsX fun x =>
    let off := sval x
    withHandle s .lsH off (szBytes z) .w fun h =>
      if h.isSpad then .ok (s.spadOrder false off (szBytes z) (sval v) 0)
      else if slotsFull s 1 then .freeze (s.waitOn fun r => r.kind.takesSlot)
      else match (if sc = .sys then s.releaseRace false (h.pbase + off) (szBytes z) else none) with
        | some a => .early .mmrace a .writeBacks
        | none => .ok (s.makeReq (.strl sc) (h.pbase + off) (szBytes z) (sval v) 0 (h.va off) h.psz)

/-- The strand passes the release fence's point: its first slice write after it carries what it has seen
(R315). -/
def State.armRelease (s : State) (sc : Sc) : State :=
  let (v, s) := s.releaseVc s.cur
  s.onMe fun k => { k with run := k.run.map fun r => { r with relFence := r.relFence ++ [⟨s.cur, sc, v⟩] } }

/-- An acquire fence synchronises with what the strand's last read has read from (R315). -/
def State.fenceAcquire (s : State) (sc : Sc) : State :=
  let l := match s.me.run with | some r => r.readMsgs | none => []
  let s := s.acquireVc s.cur (msgsVc (l.filter fun m => scopeHolds sc s.cur m.core && scopeHolds m.scope s.cur m.core))
  if sc = .core then s else s.selfInvalidate s.cur

/-- A FENCE that waits for nothing but the grammar reads of an active pass waits on the Sedge engine, which runs on: it
would else never make them (R217, R317; log 52). -/
def commitFence (f : Fk) (sc : Sc) (_v : V512) (s : State) : Commit :=
  let older := (s.reqsOf s.cur).filter fun q => f != .acq || q.kind != .store
  let quiet := older.isEmpty && (if f = .acq then s.me.loadsQuiet else s.me.movesQuiet)
  reportFirst s (f != .acq) <|
  if !quiet then .freeze (.order (older.map (·.id)) (f == .acq))
  else if !s.me.passQuiet s.nextId then .freeze .sg
  else match (if f = .acq ∨ sc = .core then none else s.carriedRace) with
    | some a => .early .mmrace a .writeBacks
    | none =>
      let s := if f = .acq then s else (if sc = .core then s else (s.writeBackAll s.cur true).1).armRelease sc
      .ok (if f = .rel then s else s.fenceAcquire sc)

/-! ### Slice operations (R272 to R274) -/

/-- ORD and SCOPE of a memory-order word (R96). -/
def moOrd (m : Nat) : Nat := bits m 1 0
def moScope (m : Nat) : Sc :=
  match bits m 3 2 with
  | 0 => .core
  | 1 => .clu
  | 2 => .die
  | _ => .sys

/-- Reports that come before a slice operation that acquires or releases (R166, R319, R327). -/
def reportsOf (s : State) (ord : Nat) (f : Commit) : Commit :=
  if ord = 0 then f else reportFirst s (decide (2 ≤ ord)) f

/-- The carried race of a slice operation that releases at sys scope (R327), and its request slot. -/
def orderedOp (s : State) (ord : Nat) (sc : Sc) (race : Option W64) (f : Commit) : Commit :=
  if slotsFull s 1 then .freeze (s.waitOn fun r => r.kind.takesSlot)
  else match (if 2 ≤ ord ∧ sc = .sys then race else none) with
    | some a => .early .mmrace a .writeBacks
    | none => f

/-- A slice operation first writes back the core's own dirty copy (R270). -/
def State.sliceReq (s : State) (kind : ReqKind) (pa n data fid : Nat) (va : W64) (psz : Nat) (lines : List Nat) :
    State :=
  (lines.foldl (fun s l => s.flushLine s.cur l) s).makeReq kind pa n data fid va psz

def commitAtom (op : Ao) (keep : Bool) (v : V512) (s : State) : Commit :=
  needPort s .lsH fun _ => needPort s .lsX fun x => needPort s .lsMo fun mo =>
    let off := sval x
    let m := sval mo
    let uns := bit m 5
    let n := if bit m 4 then 8 else 4
    if (op = .acas ∧ (s.me.port .lsY).isNone) ∨ 64 ≤ m ∨ (uns ∧ op ≠ .amin ∧ op ≠ .amax) then .raise .illopd none
    else
      let y := match s.me.port .lsY with | some y => sval y | none => 0
      reportsOf s (moOrd m) <|
      withHandle s .lsH off n .a fun h =>
        withDest s .s keep .lsTo fun d =>
          let pa := h.pbase + off
          let hits := op != .acas || zx y (8 * n) == s.mem.read pa n
          orderedOp s (moOrd m) (moScope m) (if hits then s.releaseRace true pa n else s.carriedRace) <|
            let (fid, s) := s.awaitReply .s d .ls (h.va off)
            .ok (s.sliceReq (.atom op (zx y (8 * n)) uns (moOrd m) (moScope m)) (h.pbase + off) n
              (zx (sval v) (8 * n)) fid (h.va off) h.psz [lineOf (h.pbase + off)])

def commitClrd (keep : Bool) (v : V512) (s : State) : Commit :=
  needPort s .lsH fun _ => needPort s .lsX fun x =>
    let off := sval v
    let sp := sval x
    withHandle s .lsH off 1 .a fun h =>
      if sp % 128 ≠ 0 then .raise .align none
      else if 0x80000 < sp + 128 then .raise .hbound none
      else withDest s .s keep .lsTo fun d =>
        if slotsFull s 1 then .freeze (s.waitOn fun r => r.kind.takesSlot)
        else
          let (fid, s) := s.awaitReply .s d .ls (h.va off)
          .ok (s.sliceReq (.clrd sp) (h.pbase + off) 1 0 fid (h.va off) h.psz [lineOf (h.pbase + off)])

def commitCms (keep : Bool) (v : V512) (s : State) : Commit :=
  needPort s .lsH fun hv => needPort s .lsX fun x => needPort s .lsY fun y => needPort s .lsMo fun mo =>
    let w := sval v
    let cm := bits w 3 0
    let vm := bits w 7 4
    let off := w / 512 * 512
    let m := sval mo
    let sp := sval x
    let h : Handle := BitVec.ofNat 128 hv.toNat
    if cm = 0 ∨ bit w 8 ∨ 16 ≤ m then .raise .illopd none
    else reportsOf s (moOrd m) <|
    if !h.v || h.ctx != s.me.ctx.toNat then .raise .hstale none
    else if h.size < off + 512 then .raise .hbound none
    else if !h.pa then .raise .priv none
    else if sp % 128 ≠ 0 then .raise .align none
    else if 0x80000 < sp + 512 then .raise .hbound none
    else withDest s .s keep .lsTo fun d =>
      orderedOp s (moOrd m) (moScope m) s.carriedRace <|
        let (fid, s) := s.awaitReply .s d .ls (h.va off)
        let l := lineOf (h.pbase + off)
        let s := s.sliceReq (.cms cm vm (sval y) (moOrd m) (moScope m)) (h.pbase + off) 512 0 fid (h.va off)
          h.psz [l, l + 1, l + 2, l + 3]
        .ok ((upto 8).foldl (fun s i => if bit cm (i / 2) then s.lsSlot3 (sp + 64 * i) else s)
          (s.defer (.images (s.nextId - 1) sp)))

/-- A lock or an unlock request (R169). -/
def lockReq (s : State) (kind : ReqKind) (cls : ResClass) (keep : Bool) (v : V512) : Commit :=
  let off := sval v
  withHandle s .lsH off 1 .a fun h =>
    withDest s cls keep .lsTo fun d =>
      if slotsFull s 1 then .freeze (s.waitOn fun r => r.kind.takesSlot)
      else
        let (fid, s) := s.awaitReply cls d .ls (h.va off)
        .ok (s.sliceReq kind (h.pbase + off) 1 0 fid (h.va off) h.psz [lineOf (h.pbase + off)])

def commitLock (keep : Bool) (v : V512) (s : State) : Commit := lockReq s .lock .s keep v

def commitUnlock (v : V512) (s : State) : Commit := lockReq s .unlock .latch true v

/-! ### Translation, cache control, handle reads (R157, R161, R163) -/

/-- The handle TRN gives, or its fault (R157, R158). -/
def State.trnHandle (s : State) (va : Nat) : Handle ⊕ Cause :=
  if 2 ^ 56 ≤ va then .inr .illopd
  else if 2 ^ 56 - 2 ^ 19 ≤ va then .inl (spadHandle s.me.ctx)
  else match s.translateHere va with
    | some m => .inl (m.handle s.me.ctx)
    | none => .inr .lease

/-- The cluster's lease cache holds the page: it lies in a lease of the strand's launch, or in the scratchpad window
(R157, R295). -/
def State.leaseCached (s : State) (va : Nat) : Bool :=
  decide (2 ^ 56 - 2 ^ 19 ≤ va) ||
  (match (s.me.run.bind (·.launch)).bind s.launch with
    | some l => (leasePerm l.leases va).isSome
    | none => false)

/-- Control cycles of a translation that takes n when the lease cache holds its page: otherwise the time of a map-table
read more (R122, R157, R409). -/
def State.leaseCycles (s : State) (va n : Nat) : Nat × State :=
  if s.leaseCached va then (n, s)
  else
    let (d, s) := s.takeDelay Config.guideSlice
    (n + ceilDiv d s.me.cl, s)

def commitTrn (v : V512) (s : State) : Commit :=
  match s.trnHandle (sval v) with
  | .inr c => .raise c none
  | .inl h =>
    let (n, s) := s.leaseCycles (sval v) 12
    deliver s .ls .h false .lsTo (BitVec.ofNat 512 h.toNat) 0 n none

/-- A prefetch never faults: without a handle that allows it, it does nothing (R163). -/
def commitPf (l2 : Bool) (v : V512) (s : State) : Commit :=
  match s.me.port .lsH with
  | none => .ok s
  | some hv =>
    let h : Handle := BitVec.ofNat 128 hv.toNat
    match checkHandle h s.me.ctx (sval v) 1 .r with
    | some _ => .ok s
    | none =>
      if h.isSpad then .ok s
      else if slotsFull s 1 then .freeze (s.waitOn fun r => r.kind.takesSlot)
      else .ok (s.makeReq (.prefetch l2) (h.pbase + sval v) 1 0 0 (h.va (sval v)) h.psz)

/-- A line is dirty in the L1 of the executing core. -/
def State.dirtyHere (s : State) (line : Nat) : Bool :=
  match s.me.l1Find line with | some e => e.dirty != 0 | none => false

/-- A plain access that has left the core is made now, ahead of an engine's or a cache control's; its reply keeps its time. None where the
access is held or no plain one (log 14). -/
def State.settleReq (s : State) (r : Req) : Option State :=
  if (s.cluster (homeCluster r.pa)).retained then none
  else match r.kind with
  | .prefetch _ => some s
  | .store =>
    if r.held then none
    else if r.served then some s
    else some (((s.writeThrough r.who r.pa r.n r.data).setReq { r with served := true }).schedule r.due (.loadReply r.id))
  | .load _ | .lane _ =>
    if r.held then none
    else if r.served then some s
    else
      let (s, v, b) := s.readThrough r.who r.pa r.n
      some (s.replyAt r v b (Nat.max r.due (r.start + 4 * (s.core r.core).cl)))
  | _ => none

/-- Those requests of the executing core are made now, oldest first. -/
def State.settleOn (s : State) (p : Req → Bool) : Option State :=
  ((s.reqsOf s.cur).filter p).foldl (fun o r => o.bind fun s => s.settleReq r) (some s)

/-- wb and inv: the core's earlier accesses to the line come first, and they wait for a request slot where they write it
back (R163, R164). -/
def lineControl (s : State) (v : V512) (f : State → Nat → State) : Commit :=
  withHandle s .lsH (sval v) 1 .none fun h =>
    if h.isSpad then .ok s
    else
      let l := lineOf (h.pbase + sval v)
      let onLine (q : Req) : Bool := decide (lineOf q.pa ≤ l) && decide (l ≤ lineOf (q.pa + q.n - 1))
      match s.settleOn onLine with
      | none => .freeze (s.waitOn onLine)
      | some s => if s.dirtyHere l && slotsFull s 1 then .freeze (s.waitOn fun r => r.kind.takesSlot) else .ok (f s l)

def commitWb (v : V512) (s : State) : Commit := lineControl s v fun s l => s.flushLine s.cur l

def commitInv (v : V512) (s : State) : Commit := lineControl s v fun s l => s.purgeLine s.cur l

/-- The field of a handle (R161). -/
def hinfoValue (f : HField) (h : Handle) : Nat :=
  match f with
  | .base => h.vbase
  | .size => h.size
  | .perm => boolCode h.pr + 2 * boolCode h.pw + 4 * boolCode h.pa
  | .valid => boolCode h.v

def commitHinfo (f : HField) (keep : Bool) (v : V512) (s : State) : Commit :=
  deliver s .ls .s keep .lsTo (BitVec.ofNat 512 (hinfoValue f (BitVec.ofNat 128 v.toNat))) 0 1 none

/-! ### The slices serve (R271, R322, R325) -/

/-- A store-release at its slice (R317, R322). The racing write of one at sys scope is withheld, and that of a lazy one
stands (R327). -/
def State.serveStrl (s : State) (r : Req) (sc : Sc) : State :=
  let line := lineOf r.pa
  let s := (s.purgeLine r.core line).sliceTouch line (some r.ctx)
  let g := granuleOf r.pa
  let w := r.who
  if r.bad.isSome then s.dropReq r.id
  else if sc = .sys ∧ s.raceWrite w.uid w.vc false g then (s.addLate r.core [g]).dropReq r.id
  else
    let s := if sc = .sys then s else s.setMarker line ⟨r.core, r.value, sc⟩
    let (s, raced) := s.writeAtSlice w false r.pa r.n r.data
    let s := if raced then s.addLate r.core [g] else s
    (s.noteRelease r.pa r.n (s.relMsgs r) false).dropReq r.id

/-- A load-acquire at its slice: the value, and what its releases pass on (R317, R322). -/
def State.serveLda (s : State) (r : Req) (sc : Sc) : State :=
  let line := lineOf r.pa
  let s := ((s.purgeLine r.core line).servePull line r.core).sliceTouch line (some r.ctx)
  let s := (s.readFrom r (s.msgsAt r.pa r.n)).acquireReq r (msgsVc (s.msgsFor r.pa r.n r.core sc))
  let w := s.whoNow r
  let bad := if Tbl.get false s.poison line then some Cause.eccunc
    else if s.raceRead r.uid w.vc false (granuleOf r.pa) then some .mmrace else none
  (s.noteRead (s.whoNow r) false (granuleOf r.pa)).replyLater r (s.mem.read r.pa r.n) bad

/-- A fill, a write through a filled line, an LDA or the write of a store-release reaches its home slice. -/
def State.serveAccess (s : State) (r : Req) : State :=
  let line := lineOf r.pa
  match r.kind with
  | .store => ((s.writeThrough r.who r.pa r.n r.data).dropReq r.id).lsAdvance r.core
  | .prefetch l2 =>
    let s := if l2 then s.sliceTouch line (some r.ctx)
      else if (s.core r.core).l1Has r.pa r.n then s else (s.l1Fill r.who line []).1
    (s.dropReq r.id).lsAdvance r.core
  | .strl .core => (s.coreStrl r).lsAdvance r.core
  | .strl sc => (s.serveStrl r sc).lsAdvance r.core
  | .lda .core =>
    let (s, v, b) := s.coreLda r
    s.replyLater r v b
  | .lda sc => s.serveLda r sc
  | _ =>
    let (s, v, b) := s.readThrough r.who r.pa r.n
    s.replyLater r v b

/-- The new value of an atomic (R272). -/
def atomNew (op : Ao) (uns : Bool) (w old x cmp : Nat) : Nat :=
  match op with
  | .aadd => (old + x) % 2 ^ w
  | .aand => old &&& x
  | .aor => old ||| x
  | .axor => old ^^^ x
  | .amin => if (if uns then decide (old ≤ x) else decide (sx old w ≤ sx x w)) then old else x
  | .amax => if (if uns then decide (x ≤ old) else decide (sx x w ≤ sx old w)) then old else x
  | .axch => x
  | .acas => if old = cmp then x else old

/-- An atomic writes unless it is an acas whose comparison fails (R272). -/
def atomWrites (op : Ao) (old cmp : Nat) : Bool := op != .acas || old == cmp

/-- The release of a slice operation that wrote some spans of bytes: its own by ORD, and the fences whose first write
it is (R315, R317, R322). -/
def State.opRelease (s : State) (r : Req) (ord : Nat) (sc : Sc) (spans : List (Nat × Nat)) : State :=
  let s := if ord < 2 ∨ sc = .core ∨ sc = .sys then s
    else spans.foldl (fun s e => s.setMarker (lineOf e.1) ⟨r.core, r.value, sc⟩) s
  spans.foldl (fun s e => s.noteRelease e.1 e.2 (s.relMsgs r) true) s

/-- A slice operation that has not written leaves its release fences to the strand's next write (R315). -/
def State.fencesBack (s : State) (r : Req) : State :=
  if r.fence = [] then s
  else match (s.reqsOf r.core).find? fun q => decide (r.id < q.id) && q.kind.writes with
    | some q => s.setReq { q with fence := r.fence ++ q.fence }
    | none => s.onCore r.core fun k => { k with run := k.run.map fun q =>
        if q.uid = r.uid then { q with relFence := r.fence ++ q.relFence } else q }

/-- What a slice operation has read from in some spans of bytes, by ORD an acquire (R315). -/
def State.opAcquire (s : State) (r : Req) (ord : Nat) (sc : Sc) (spans : List (Nat × Nat)) : State :=
  let s := s.readFrom r (spans.flatMap fun e => s.msgsAt e.1 e.2)
  if ord % 2 = 1 then
    s.acquireReq r (msgsVc (spans.flatMap fun e => s.msgsFor e.1 e.2 r.core sc))
  else s

/-- Lines of a slice operation made current at the slice: the core's own dirty copies, pulls, residence
(R270, R322). -/
def State.readyLines (s : State) (r : Req) (lines : List Nat) : State :=
  lines.foldl (fun s l => ((s.purgeLine r.core l).servePull l r.core).sliceTouch l (some r.ctx)) s

/-- Replies to a slice operation. -/
def State.opReply (s : State) (r : Req) (v : Nat) (bad : Option Cause) : State :=
  let (d, s) := s.takeDelay Config.guideSlice
  let t := s.replyTime r d
  let s := match r.kind with
    | .clrd sp => s.onCore r.core fun k =>
        (k.takeSlot3 (k.slotCycle t - k.cl) sp).takeSlot3 (k.slotCycle t - k.cl) (sp + 64)
    | _ => s
  s.replyAt r v bad t

/-- An atomic at its slice (R272, R319, R325, R327). The write of a lazy release stands when it races; any
other raced write is withheld, and so is the write of a release whose write-backs race. -/
def State.performAtom (s : State) (r : Req) (op : Ao) (cmp : Nat) (uns : Bool) (ord : Nat) (sc : Sc) : State :=
  let line := lineOf r.pa
  let s := (s.readyLines r [line]).opAcquire r ord sc [(r.pa, r.n)]
  let w : Who := (s.whoNow r)
  let g := granuleOf r.pa
  let old := s.mem.read r.pa r.n
  if Tbl.get false s.poison line then s.opReply r old (some .eccunc)
  else
    let racedR := s.raceRead w.uid w.vc true g
    let s := s.noteRead w true g
    let lazy := decide (2 ≤ ord) && sc != .sys && sc != .core
    let racedW := s.raceWrite w.uid w.vc true g
    let s := if atomWrites op old cmp && (!racedW || lazy) && r.bad.isNone then
        let s := (s.writeAtSlice w true r.pa r.n (atomNew op uns (8 * r.n) old r.data cmp)).1
        let s := if racedW then s.addLate r.core [g] else s
        s.opRelease r ord sc [(r.pa, r.n)]
      else s.fencesBack r
    let bad := if racedR || (racedW && atomWrites op old cmp && !lazy) then some Cause.mmrace else none
    s.opReply r old bad

/-- CLRD at its slice: 128 bytes of the line in the low 1,024 bits of the reply, the version above (R273). -/
def State.performClrd (s : State) (r : Req) : State :=
  let line := lineOf r.pa
  let s := (s.readyLines r [line]).opAcquire r 0 .core [(128 * line, 128)]
  let w := (s.whoNow r)
  let gs := (upto 8).map (8 * line + ·)
  let bad := if Tbl.get false s.poison line then some Cause.eccunc
    else if gs.any (s.raceRead w.uid w.vc true) then some .mmrace else none
  let s := gs.foldl (fun s g => s.noteRead w true g) s
  let ver := match s.sline line with | some l => l.version.toNat | none => 0
  s.opReply r (s.mem.read (128 * line) 128 + 2 ^ 1024 * ver) bad

/-- Lines of a group that fail a comparison of versions (R274). -/
def State.cmsBad (s : State) (line cmp vers : Nat) : Nat :=
  ((upto 4).filter fun i => bit cmp i && (match s.sline (line + i) with
    | some l => l.version.toNat != bits vers (16 * i + 15) (16 * i)
    | none => true)).foldl (fun m i => m + 2 ^ i) 0

/-- CMS at its slice (R274, R288). -/
def State.performCms (s : State) (r : Req) (cm vm vers ord : Nat) (sc : Sc) : State :=
  let line := lineOf r.pa
  let cmp := cm ||| vm
  let sel (m : Nat) := (upto 4).filter fun i => bit m i
  let spans (m : Nat) := (sel m).map fun i => (128 * (line + i), 128)
  let s := (s.readyLines r ((sel cmp).map (line + ·))).opAcquire r ord sc (spans cmp)
  let w : Who := (s.whoNow r)
  let bad := s.cmsBad line cmp vers
  let poisoned := (sel cmp).any fun i => Tbl.get false s.poison (line + i)
  let grans (m : Nat) := (sel m).flatMap fun i => (upto 8).map (8 * (line + i) + ·)
  if poisoned && cm != 15 then (s.fencesBack r).opReply r (1 + bad * 256) (some .eccunc)
  else if bad ≠ 0 then
    let raced := (grans cmp).any (s.raceRead w.uid w.vc true)
    let s := (grans cmp).foldl (fun s g => s.noteRead w true g) s
    (s.fencesBack r).opReply r (1 + bad * 256) (if raced then some .mmrace else none)
  else
    let lazy := decide (2 ≤ ord) && sc != .sys && sc != .core
    let raced := (grans cm).filter (s.raceWrite w.uid w.vc true)
    if r.bad.isSome then (s.fencesBack r).opReply r 0 none
    else if raced ≠ [] ∧ !lazy then (s.fencesBack r).opReply r 0 (some .mmrace)
    else
      let s := s.addLate r.core raced
      let s := (sel cm).foldl (fun s i =>
        let s := (upto 8).foldl (fun s j => s.noteWrite w true (8 * (line + i) + j)) s
        let s := { s with
          mem := s.mem.write (128 * (line + i)) 128 (getBytes r.data (128 * i) 128)
          poison := Tbl.put false s.poison (line + i) false }
        (s.bumpVersion (line + i) (some r.ctx)).onCore r.core fun k => k.wrote (128 * (line + i)) 128) s
      (s.opRelease r ord sc (spans cm)).opReply r 0 none

/-- Lines a context holds locked, of its quota (R169). -/
def State.lockOn (s : State) (x : CtxId) (line : Nat) (add : Bool) : State :=
  match s.sline line with
  | some l =>
    let h := if add then x :: l.holders else l.holders.filter fun y => y != x
    (s.setSline line (some { l with holders := h })).onCtx x fun c =>
      { c with held := if add then c.held + 1 else c.held - 1 }
  | none => s

/-- LOCK and UNLOCK at the slice (R169): status 0, LKSET 1, LKQUOTA 2; UNLOCK 1 or 0. -/
def State.performLock (s : State) (r : Req) (lock : Bool) : State :=
  let line := lineOf r.pa
  let holders := match s.sline line with | some l => l.holders | none => []
  let has := holders.contains r.ctx
  if lock then
    if has then s.opReply r 0 none
    else if (s.ctx r.ctx).held = (s.ctx r.ctx).lockq.toNat then s.opReply r 2 none
    else if holders ≠ [] then (s.lockOn r.ctx line true).opReply r 0 none
    else if 12 ≤ ((s.setLines (setKey line)).filter fun e => e.2.holders != []).length then s.opReply r 1 none
    else ((s.sliceTouch line (some r.ctx)).lockOn r.ctx line true).opReply r 0 none
  else if has then (s.lockOn r.ctx line false).opReply r 1 none
  else s.opReply r 0 none

/-- A slice operation performed (R271). -/
def State.performOp (s : State) (r : Req) : State :=
  match r.kind with
  | .atom op cmp uns ord sc => s.performAtom r op cmp uns ord sc
  | .clrd _ => s.performClrd r
  | .cms cm vm vers ord sc => s.performCms r cm vm vers ord sc
  | .lock => s.performLock r true
  | .unlock => s.performLock r false
  | _ => s

/-- The value a reply delivers: loads extend, CLRD delivers its version (R162, R273). -/
def Req.result (r : Req) : Nat :=
  match r.kind with
  | .load true => wrap (sx r.value (8 * r.n)) 64
  | .clrd _ => r.value / 2 ^ 1024
  | _ => r.value

/-- A reply lands: an acquire discards clean lines, a slice operation's lines leave the L1, CLRD fills the
scratchpad, and the flight is delivered or marks its register (R165, R166, R270, R273, R323). -/
def State.landReply (s : State) (r : Req) : State :=
  let s : State := match r.kind with
    | .atom .. | .clrd _ => s.purgeLine r.core (lineOf r.pa)
    | .cms .. => (upto 4).foldl (fun s i => s.purgeLine r.core (lineOf r.pa + i)) s
    | _ => s
  let s : State := match r.kind with
    | .lda sc => if sc = .core then s else s.selfInvalidate r.core
    | .atom _ _ _ ord sc => if ord % 2 = 1 ∧ sc ≠ .core then s.selfInvalidate r.core else s
    | .cms _ _ _ ord sc => if ord % 2 = 1 ∧ sc ≠ .core then s.selfInvalidate r.core else s
    | _ => s
  let s : State := match r.kind with
    | .clrd sp => if r.bad.isNone then s.onCore r.core fun k => k.spadWrite sp 128 (r.value % 2 ^ 1024) else s
    | _ => s
  s.onCore r.core fun k =>
    match k.fl.find? fun f => f.id == r.fid with
    | some f => k.landOne (match r.kind with
        | .spad _ => f
        | _ => { f with value := BitVec.ofNat 512 r.result, bad := r.bad })
    | none => k

/-! ### The steps -/

/-- LD (R162). -/
def execLd (z : LdSz) (m : Mv) (s : State) : Host.Outcome State Fault Refusal := runMove (.ld z m) (commitLd z m.k) s
/-- ST (R162). -/
def execSt (z : Sz) (m : Mv) (s : State) : Host.Outcome State Fault Refusal := runMove (.st z m) (commitSt z) s
/-- LDA (R317). -/
def execLda (z : Sz) (sc : Sc) (m : Mv) (s : State) : Host.Outcome State Fault Refusal :=
  runMove (.lda z sc m) (commitLda z sc m.k) s
/-- STRL (R317). -/
def execStrl (z : Sz) (sc : Sc) (m : Mv) (s : State) : Host.Outcome State Fault Refusal :=
  runMove (.strl z sc m) (commitStrl z sc) s
/-- FENCE (R317). -/
def execFence (f : Fk) (sc : Sc) (m : Mv) (s : State) : Host.Outcome State Fault Refusal :=
  runMove (.fence f sc m) (commitFence f sc) s
/-- ATOM (R272). -/
def execAtom (op : Ao) (m : Mv) (s : State) : Host.Outcome State Fault Refusal :=
  runMove (.atom op m) (commitAtom op m.k) s
/-- CLRD (R273). -/
def execClrd (m : Mv) (s : State) : Host.Outcome State Fault Refusal := runMove (.clrd m) (commitClrd m.k) s
/-- CMS (R274). -/
def execCms (m : Mv) (s : State) : Host.Outcome State Fault Refusal := runMove (.cms m) (commitCms m.k) s
/-- LOCK (R169). -/
def execLock (m : Mv) (s : State) : Host.Outcome State Fault Refusal := runMove (.lock m) (commitLock m.k) s
/-- UNLOCK (R169). -/
def execUnlock (m : Mv) (s : State) : Host.Outcome State Fault Refusal := runMove (.unlock m) commitUnlock s
/-- TRN (R157). -/
def execTrn (m : Mv) (s : State) : Host.Outcome State Fault Refusal := runMove (.trn m) commitTrn s
/-- PF (R163). -/
def execPf (l2 : Bool) (m : Mv) (s : State) : Host.Outcome State Fault Refusal := runMove (.pf l2 m) (commitPf l2) s
/-- WB (R163). -/
def execWb (m : Mv) (s : State) : Host.Outcome State Fault Refusal := runMove (.wb m) commitWb s
/-- INV (R163). -/
def execInv (m : Mv) (s : State) : Host.Outcome State Fault Refusal := runMove (.inv m) commitInv s
/-- HINFO (R161). -/
def execHinfo (f : HField) (m : Mv) (s : State) : Host.Outcome State Fault Refusal :=
  runMove (.hinfo f m) (commitHinfo f m.k) s

/-- Clusters in retention that addresses are homed in wake; none when there is no such cluster (R286). -/
def State.wakeHomes (s : State) (l : List Nat) : Option State :=
  let ks := ((l.map homeCluster).filter fun k => (s.cluster k).retained).eraseDups
  if ks.isEmpty then none else some (ks.foldl (fun s k => s.schedule (s.now + 54000) (.retentionWake k false)) s)

/-- When the core's older requests to the lines of a request have been served, while some are on their way (R162, R318);
a request whose time has passed is looked at again soon. -/
def State.olderOut (s : State) (r : Req) : Option Nat :=
  match (s.reqsOf r.core).filter fun q =>
      decide (q.id < r.id) && !q.held && !q.served && q.kind.takesSlot && q.shareLine r with
  | [] => none
  | l =>
    let t := l.foldl (fun t q => Nat.max t q.due) 0
    some (if s.now ≤ t then t else s.now + 5)

/-- A request reaches its home slice and is served (R322); one whose time to leave its core has come is held no longer
than order asks (R149). -/
def execSliceAccessServe (req : Nat) (s : State) : Host.Outcome State Fault Refusal :=
  match s.req req with
  | some r =>
    if r.held then .next (s.lsAdvance r.core)
    else if r.served || r.kind.sliceOp then .next s
    else match s.olderOut r with
      | some t => .next ((s.setReq { r with due := t }).schedule t (.sliceAccessServe req))
      | none => match s.wakeHomes [r.pa] with
        | some t => .next ((t.setReq { r with due := s.now + 54000 }).schedule (s.now + 54000) (.sliceAccessServe req))
        | none => .next (s.serveAccess r)
  | none => .next s

/-- A CMS whose bundle still commits: its images are yet to be read (R153). -/
def Core.imagesDeferred (k : Core) (req : Nat) : Bool :=
  k.bs.deferred.any fun d => match d with | .images id _ => id == req | _ => false

/-- The home slice performs an atomic, CLRD, CMS, lock or unlock (R271). -/
def execSliceOpPerform (req : Nat) (s : State) : Host.Outcome State Fault Refusal :=
  match s.req req with
  | some r =>
    if r.held || r.served || !r.kind.sliceOp then .next s
    else if (s.core r.core).imagesDeferred req then
      let t := s.now + (s.core r.core).cl
      .next ((s.setReq { r with due := t }).schedule t (.sliceOpPerform req))
    else match s.olderOut r with
      | some t => .next ((s.setReq { r with due := t }).schedule t (.sliceOpPerform req))
      | none => match s.wakeHomes [r.pa] with
        | some t => .next ((t.setReq { r with due := s.now + 54000 }).schedule (s.now + 54000) (.sliceOpPerform req))
        | none => .next (s.performOp r)
  | none => .next s

/-- A scratchpad load whose bundle still commits: its access is yet to be made (R153). -/
def Core.loadDeferred (k : Core) (fid : Nat) : Bool := k.bs.deferred.any fun d => d.flight == some fid

/-- A served request's reply arrives (R165). -/
def execLoadReply (req : Nat) (s : State) : Host.Outcome State Fault Refusal :=
  match s.req req with
  | some r =>
    if !r.served then .next s
    else if (s.core r.core).loadDeferred r.fid then
      .next (s.schedule (s.now + (s.core r.core).cl) (.loadReply req))
    else .next (((s.landReply r).dropReq req).lsAdvance r.core)
  | none => .next s

end Sys2Proof.Machine
end

