-- ==== Sys2Proof/Machine/Vector.lean ====
section
/-! DEFINITION. The vector unit (R97, R128 to R150). -/

namespace Sys2Proof.Machine

/-! ### Lanes (R128) -/

/-- n results of width w as lanes, with their flags together. -/
def laneMap (w n : Nat) (f : Nat → Nat × Flags) : V512 × Flags :=
  let l := (upto n).map f
  (pack w (l.map (·.1)), l.foldl (fun a r => a ||| r.2) 0)

/-- n predicate bits. -/
def predMap (n : Nat) (f : Nat → Bool) : V512 := packNat 1 ((upto n).map fun i => boolCode (f i))

/-- Width of a float lane, and of any lane type (R128). -/
def ftWidth : Ft → Nat | .f32 => 32 | _ => 16
def vtWidth : Vt → Nat | .fl t => ftWidth t | _ => 32

/-- The value of a float lane. -/
def ftVal (t : Ft) (c : Nat) : FVal := (ftFmt t).value c

/-- A result of the vector unit after its latency in vector cycles (R132, R133). -/
def vxDeliver (s : State) (cls : ResClass) (keep : Bool) (r : V512 × Flags) (lat : Nat) : Commit :=
  deliver s .vx cls keep .vxTo r.1 r.2 (s.me.cyclesOf s.me.pctx.divVec lat) (some (.vectorResultDelivery s.cur))

/-! ### Arithmetic (R134, R135) -/

/-- Latency of an add, subtract, minimum or maximum (R132). -/
def addLat : Vt → Nat | .fl _ => 4 | _ => 1

/-- A lane-wise operation on vx.x and s. -/
def vxBinary (s : State) (keep : Bool) (w lat : Nat) (f : Nat → Nat → Nat × Flags) (v : V512) : Commit :=
  needPort s .vxX fun x =>
    vxDeliver s .v keep (laneMap w (512 / w) fun i => f (lane w x i) (lane w v i)) lat

/-- A lane-wise operation on s. -/
def vxUnary (s : State) (keep : Bool) (w lat : Nat) (f : Nat → Nat × Flags) (v : V512) : Commit :=
  vxDeliver s .v keep (laneMap w (512 / w) fun i => f (lane w v i)) lat

/-- vadd of a lane. -/
def laneAdd (t : Vt) (rm : Rm) (x y : Nat) : Nat × Flags :=
  match t with
  | .fl t => fAdd (ftFmt t) rm (ftVal t x) (ftVal t y)
  | _ => ((x + y) % 2 ^ 32, 0)

/-- vsub of a lane. -/
def laneSub (t : Vt) (rm : Rm) (x y : Nat) : Nat × Flags :=
  match t with
  | .fl t => fAdd (ftFmt t) rm (ftVal t x) (ftVal t y).neg
  | _ => ((x + 2 ^ 32 - y) % 2 ^ 32, 0)

/-- vmul of a lane. -/
def laneMul (t : Vt) (rm : Rm) (x y : Nat) : Nat × Flags :=
  match t with
  | .fl t => fMul (ftFmt t) rm (ftVal t x) (ftVal t y)
  | _ => (x * y % 2 ^ 32, 0)

/-- vmin and vmax of a lane. -/
def laneMinMax (t : Vt) (wantMax : Bool) (x y : Nat) : Nat × Flags :=
  match t with
  | .fl t => (fMinMax (ftFmt t) wantMax x y, 0)
  | .int => (if decide (sx x 32 ≤ sx y 32) == wantMax then y else x, 0)
  | .uint => (if decide (x ≤ y) == wantMax then y else x, 0)

/-- vabs of a lane. -/
def laneAbs (t : Va) (x : Nat) : Nat × Flags :=
  match t with
  | .fl t => (if (ftVal t x).isNan then (ftFmt t).nanCode else x % (ftFmt t).signBit, 0)
  | .int => ((sx x 32).natAbs % 2 ^ 32, 0)

/-- vneg of a lane. -/
def laneNeg (t : Va) (x : Nat) : Nat × Flags :=
  match t with
  | .fl t => (if (ftVal t x).isNan then (ftFmt t).nanCode else x ^^^ (ftFmt t).signBit, 0)
  | .int => ((2 ^ 32 - x) % 2 ^ 32, 0)

def vaWidth : Va → Nat | .fl t => ftWidth t | .int => 32

def commitVadd (t : Vt) (keep : Bool) (v : V512) (s : State) : Commit :=
  vxBinary s keep (vtWidth t) (addLat t) (laneAdd t s.me.rm) v

def commitVsub (t : Vt) (keep : Bool) (v : V512) (s : State) : Commit :=
  vxBinary s keep (vtWidth t) (addLat t) (laneSub t s.me.rm) v

def commitVmul (t : Vt) (keep : Bool) (v : V512) (s : State) : Commit :=
  vxBinary s keep (vtWidth t) (match t with | .fl _ => 4 | _ => 3) (laneMul t s.me.rm) v

def commitVmin (t : Vt) (keep : Bool) (v : V512) (s : State) : Commit :=
  vxBinary s keep (vtWidth t) (addLat t) (laneMinMax t false) v

def commitVmax (t : Vt) (keep : Bool) (v : V512) (s : State) : Commit :=
  vxBinary s keep (vtWidth t) (addLat t) (laneMinMax t true) v

def commitVabs (t : Va) (keep : Bool) (v : V512) (s : State) : Commit :=
  vxUnary s keep (vaWidth t) 1 (laneAbs t) v

def commitVneg (t : Va) (keep : Bool) (v : V512) (s : State) : Commit :=
  vxUnary s keep (vaWidth t) 1 (laneNeg t) v

/-- A fused operation on vx.x, s and vx.y. -/
def vxFused (s : State) (t : Ft) (keep : Bool) (f : FVal → FVal → FVal → Nat × Flags) (v : V512) : Commit :=
  needPort s .vxX fun x => needPort s .vxY fun y =>
    let w := ftWidth t
    vxDeliver s .v keep
      (laneMap w (512 / w) fun i => f (ftVal t (lane w x i)) (ftVal t (lane w v i)) (ftVal t (lane w y i))) 4

def commitVfma (t : Ft) (keep : Bool) (v : V512) (s : State) : Commit :=
  vxFused s t keep (fFma (ftFmt t) s.me.rm) v

def commitVfms (t : Ft) (keep : Bool) (v : V512) (s : State) : Commit :=
  vxFused s t keep (fun x y z => fFma (ftFmt t) s.me.rm x y z.neg) v

def commitVfnma (t : Ft) (keep : Bool) (v : V512) (s : State) : Commit :=
  vxFused s t keep (fun x y z => fFma (ftFmt t) s.me.rm x.neg y z) v

/-! ### Correctly rounded functions (R136) -/

/-- A function of FP32 lanes. -/
def vxFunction (s : State) (keep : Bool) (lat : Nat) (f : Rm → FVal → Nat × Flags) (v : V512) : Commit :=
  vxUnary s keep 32 lat (fun x => f s.me.rm (fp32.value x)) v

def commitVrcp (keep : Bool) (v : V512) (s : State) : Commit := vxFunction s keep 10 fRcp v
def commitVrsqrt (keep : Bool) (v : V512) (s : State) : Commit := vxFunction s keep 10 fRsqrt v
def commitVexp2 (keep : Bool) (v : V512) (s : State) : Commit := vxFunction s keep 10 fExp2 v
def commitVlog2 (keep : Bool) (v : V512) (s : State) : Commit := vxFunction s keep 10 fLog2 v
def commitVsqrt (keep : Bool) (v : V512) (s : State) : Commit := vxFunction s keep 12 fSqrt v

/-! ### Compares, selects, predicate and bitwise logic (R137 to R140) -/

/-- A compare of vx.x with s: 16 bits, or 32 on 16-bit lanes (R131, R137). -/
def vxCompare (s : State) (keep : Bool) (w lat : Nat) (f : Nat → Nat → Bool) (v : V512) : Commit :=
  needPort s .vxX fun x =>
    vxDeliver s (if w = 16 then .p2 else .p) keep
      (predMap (512 / w) fun i => f (lane w x i) (lane w v i), 0) lat

def cmpLat : Vt → Nat | .fl _ => 2 | _ => 1

/-- x = y, x < y, x <= y of a lane (R137). -/
def laneEq (t : Vt) (x y : Nat) : Bool :=
  match t with
  | .fl t => (ftVal t x).eq (ftVal t y)
  | _ => x == y

def laneLt (t : Vt) (x y : Nat) : Bool :=
  match t with
  | .fl t => FVal.lt false (ftVal t x) (ftVal t y)
  | .int => decide (sx x 32 < sx y 32)
  | .uint => decide (x < y)

def laneLe (t : Vt) (x y : Nat) : Bool := laneLt t x y || laneEq t x y

def commitVcmpeq (t : Vt) (keep : Bool) (v : V512) (s : State) : Commit :=
  vxCompare s keep (vtWidth t) (cmpLat t) (laneEq t) v

def commitVcmplt (t : Vt) (keep : Bool) (v : V512) (s : State) : Commit :=
  vxCompare s keep (vtWidth t) (cmpLat t) (laneLt t) v

def commitVcmple (t : Vt) (keep : Bool) (v : V512) (s : State) : Commit :=
  vxCompare s keep (vtWidth t) (cmpLat t) (laneLe t) v

def commitVcmpun (t : Ft) (keep : Bool) (v : V512) (s : State) : Commit :=
  vxCompare s keep (ftWidth t) 2 (fun x y => (ftVal t x).isNan || (ftVal t y).isNan) v

def commitVsel (w16 : Bool) (keep : Bool) (v : V512) (s : State) : Commit :=
  needPort s .vxX fun x => needPort s .vxP fun p =>
    let w := if w16 then 16 else 32
    vxDeliver s .v keep
      (laneMap w (512 / w) fun i => (if bit p.toNat i then lane w v i else lane w x i, 0)) 1

/-- Predicate logic on 16 bits (R139). -/
def plResult (op : Pl) (p v : Nat) : Nat :=
  match op with
  | .and => p &&& v
  | .or => p ||| v
  | .xor => p ^^^ v
  | .andn => p &&& (0xFFFF - v)
  | .not => 0xFFFF - v

def commitVpl (op : Pl) (v : V512) (s : State) : Commit :=
  let go (p : Nat) : Commit := vxDeliver s .p false (BitVec.ofNat 512 (plResult op (p % 2 ^ 16) (v.toNat % 2 ^ 16)), 0) 1
  match op with
  | .not => go 0
  | _ => needPort s .vxP fun p => go p.toNat

/-- A bitwise operation on vx.x and s (R140). -/
def vxBits (s : State) (keep : Bool) (f : V512 → V512 → V512) (v : V512) : Commit :=
  needPort s .vxX fun x => vxDeliver s .v keep (f x v, 0) 1

def commitVand (keep : Bool) (v : V512) (s : State) : Commit := vxBits s keep (· &&& ·) v
def commitVor (keep : Bool) (v : V512) (s : State) : Commit := vxBits s keep (· ||| ·) v
def commitVxor (keep : Bool) (v : V512) (s : State) : Commit := vxBits s keep (· ^^^ ·) v

def commitVshl (keep : Bool) (v : V512) (s : State) : Commit :=
  vxBinary s keep 32 1 (fun x y => (x * 2 ^ (y % 32) % 2 ^ 32, 0)) v

def commitVshr (arith : Bool) (keep : Bool) (v : V512) (s : State) : Commit :=
  vxBinary s keep 32 1
    (fun x y => (if arith then wrap (sx x 32 / ((2 ^ (y % 32) : Nat) : Int)) 32 else x / 2 ^ (y % 32), 0)) v

/-! ### Conversions (R141, R142) -/

/-- A float lane converted to a float type (R46). -/
def laneConv (rm : Rm) (a b : FFmt) (c : Nat) : Nat × Flags := fRound b rm (a.value c)

/-- FP32 lanes of s, then of x, to 16-bit half-lanes (R141). -/
def vxNarrow16 (s : State) (keep : Bool) (f : FFmt) (v : V512) : Commit :=
  needPort s .vxX fun x =>
    vxDeliver s .v keep
      (laneMap 16 32 fun j => laneConv s.me.rm fp32 f (if j < 16 then lane 32 v j else lane 32 x (j - 16))) 3

def commitVcvt (c : Cv) (keep : Bool) (v : V512) (s : State) : Commit :=
  let rm := s.me.rm
  match c with
  | .f2bf => vxNarrow16 s keep bf16 v
  | .f2h => vxNarrow16 s keep fp16 v
  | .bf2f => vxDeliver s .v keep (laneMap 32 16 fun j => laneConv rm bf16 fp32 (lane 16 v j)) 3
  | .h2f => vxDeliver s .v keep (laneMap 32 16 fun j => laneConv rm fp16 fp32 (lane 16 v j)) 3
  | .bf2h => vxUnary s keep 16 3 (laneConv rm bf16 fp16) v
  | .h2bf => vxUnary s keep 16 3 (laneConv rm fp16 bf16) v
  | .f2i => vxUnary s keep 32 3 (fun x => fToInt rm true (fp32.value x)) v
  | .f2it => vxUnary s keep 32 3 (fun x => fToInt .rtz true (fp32.value x)) v
  | .f2ui => vxUnary s keep 32 3 (fun x => fToInt rm false (fp32.value x)) v
  | .f2uit => vxUnary s keep 32 3 (fun x => fToInt .rtz false (fp32.value x)) v
  | .i2f => vxUnary s keep 32 3 (intToF rm true) v
  | .ui2f => vxUnary s keep 32 3 (intToF rm false) v

/-- The format of vx.f, the scale code and the bit position and width of the block (R142). -/
def withBlock (s : State) (ks : Bool) (f : Fmt → Nat → Nat → Nat → Commit) : Commit :=
  needPort s .vxF fun fv => needPort s .vxS fun sv =>
    let F : Fmt := BitVec.ofNat 32 fv.toNat
    if !F.consistent then .raise .fmtreg none
    else if bits (sval sv) 63 10 ≠ 0 then .raise .illopd none
    else
      let w := if F.isNibble then 64 else 128
      f F (if ks then bits (sval sv) 7 0 else 127) (w * bits (sval sv) 9 8) w

def commitVnarrow (ks : Bool) (keep : Bool) (v : V512) (s : State) : Commit :=
  needPort s .vxX fun x => withBlock s ks fun F k lo w =>
    let r := (upto 16).map fun i => let c := lane 32 v i; encode F (bit c 31) (fp32.value c) k
    vxDeliver s .v keep
      (BitVec.ofNat 512 (setBits x.toNat lo w (packNarrow F (r.map (·.code)))),
        r.foldl (fun a e => a ||| e.flags) 0) 3

def commitVwiden (ks : Bool) (keep : Bool) (v : V512) (s : State) : Commit :=
  withBlock s ks fun F k lo w =>
    let b := bits v.toNat (lo + w - 1) lo
    vxDeliver s .v keep (laneMap 32 16 fun i => decodeNarrow F s.me.rm (narrowAt F b i) k) 3

/-! ### Reductions (R143) -/

/-- One level of the tree. -/
def pairUp (op : Nat → Nat → Nat × Flags) : List (Nat × Flags) → List (Nat × Flags)
  | a :: b :: r => (let c := op a.1 b.1; (c.1, a.2 ||| b.2 ||| c.2)) :: pairUp op r
  | l => l

/-- n levels of the tree. -/
def treeReduce (op : Nat → Nat → Nat × Flags) : Nat → List (Nat × Flags) → Nat × Flags
  | 0, l => l.headD (0, 0)
  | n + 1, l => treeReduce op n (pairUp op l)

/-- The leaves of a reduction: lanes, half-lanes widened to FP32. -/
def leaves (t : Vt) (v : V512) : List (Nat × Flags) :=
  match t with
  | .fl .f32 => (upto 16).map fun i => (lane 32 v i, 0)
  | .fl t => (upto 32).map fun i => ((fRound fp32 .rne (ftVal t (lane 16 v i))).1, 0)
  | _ => (upto 16).map fun i => (lane 32 v i, 0)

/-- A reduction's operator works on FP32 for every float type. -/
def treeType : Vt → Vt | .fl _ => .fl .f32 | t => t

def treeLat : Vt → Nat | .fl .f32 => 9 | .fl _ => 11 | _ => 3

/-- The scalar a reduction delivers. -/
def reduceV (t : Vt) (op : Vt → Nat → Nat → Nat × Flags) (v : V512) : Nat × Flags :=
  let l := leaves t v
  let r := treeReduce (op (treeType t)) (if l.length = 32 then 5 else 4) l
  match t with
  | .int => (wrap (sx r.1 32) 64, 0)
  | _ => r

def vxReduce (s : State) (t : Vt) (keep : Bool) (op : Vt → Nat → Nat → Nat × Flags) (v : V512) : Commit :=
  let r := reduceV t op v
  vxDeliver s .s keep (BitVec.ofNat 512 r.1, r.2) (treeLat t)

def commitVrsum (t : Vt) (keep : Bool) (v : V512) (s : State) : Commit :=
  vxReduce s t keep (fun t => laneAdd t s.me.rm) v
def commitVrmax (t : Vt) (keep : Bool) (v : V512) (s : State) : Commit :=
  vxReduce s t keep (fun t => laneMinMax t true) v
def commitVrmin (t : Vt) (keep : Bool) (v : V512) (s : State) : Commit :=
  vxReduce s t keep (fun t => laneMinMax t false) v

/-! ### Permutes and broadcasts (R144) -/

def commitVbcast (w16 : Bool) (keep : Bool) (v : V512) (s : State) : Commit :=
  let w := if w16 then 16 else 32
  vxDeliver s .v keep (laneMap w (512 / w) fun _ => (lane w v 0, 0)) 1

def commitVperm (keep : Bool) (v : V512) (s : State) : Commit :=
  needPort s .vxX fun x =>
    vxDeliver s .v keep (laneMap 32 16 fun i => (lane 32 x (lane 32 v i % 16), 0)) 1

def commitVext (sext : Bool) (keep : Bool) (v : V512) (s : State) : Commit :=
  needPort s .vxX fun x =>
    let r := lane 32 x (v.toNat % 16)
    vxDeliver s .s keep (BitVec.ofNat 512 (if sext then wrap (sx r 32) 64 else r), 0) 1

def commitVins (keep : Bool) (v : V512) (s : State) : Commit :=
  needPort s .vxX fun x => needPort s .vxS fun y =>
    vxDeliver s .v keep
      (laneMap 32 16 fun i => (if i = v.toNat % 16 then y.toNat % 2 ^ 32 else lane 32 x i, 0)) 1

def commitVrot (keep : Bool) (v : V512) (s : State) : Commit :=
  needPort s .vxX fun x =>
    vxDeliver s .v keep (laneMap 32 16 fun i => (lane 32 x ((i + v.toNat % 16) % 16), 0)) 1

/-! ### Scratchpad loads and stores (R145, R146) -/

/-- The check of a scratchpad address for n bytes (R145, R147). -/
def spadCheck (a n : Nat) : Option Cause :=
  if a % n ≠ 0 then some .align else if 0x80000 ≤ a then some .hbound else none

/-- VLD: the destination is looked at last, after the address, as by every trigger of vx with faults of its own (R62,
R150; DESIGN CHOICE, log 16). -/
def commitVld (keep : Bool) (v : V512) (s : State) : Commit :=
  match spadCheck (sval v) 64 with
  | some c => .raise c none
  | none => (vxDeliver s .v keep (BitVec.ofNat 512 (s.me.spadRead (sval v) 64), 0) 6).spadFaulty s
      (s.me.spadErr (sval v) 64) (sval v)

/-- A scratchpad write of the vector unit; what it replaces is kept for an MLDC of its bundle (R192). -/
def Core.vxStore (k : Core) (a n v : Nat) : Core :=
  { k.spadWrite a n v with bs := { k.bs with vxOld := k.bs.vxOld ++ [(a, n, k.spadRead a n)] } }

def commitVst (v : V512) (s : State) : Commit :=
  needPort s .vxS fun a =>
    match spadCheck (sval a) 64 with
    | some c => .raise c none
    | none => .ok (s.onMe fun k => k.vxStore (sval a) 64 v.toNat)

/-! ### Gathers and scatters (R147 to R149) -/

/-- The fault address of a lane (R147, R148). -/
def laneAddr (i a : Nat) : W64 := BitVec.ofNat 64 (i * 2 ^ 60 + a)

/-- The first lane whose check fails. A stale handle fails for lane 0 first, so its fault address is lane 0's, where R148
states none (log 16). -/
def laneCheck (v : V512) (f : Nat → Option Cause) : Option (Cause × W64) :=
  (upto 16).findSome? fun i => (f (lane 32 v i)).map fun c => (c, laneAddr i (lane 32 v i))

/-- 16 words of the scratchpad. -/
def Core.spadGather (k : Core) (v : V512) : V512 := pack 32 ((upto 16).map fun i => k.spadRead (lane 32 v i) 4)

/-- The gathered words, delivered; a word with an uncorrectable error poisons the vector (R147, R166). -/
def spadGathered (s : State) (keep : Bool) (v : V512) : Commit :=
  (vxDeliver s .v keep (s.me.spadGather v, 0) 8).spadFaulty s
    ((upto 16).any fun i => s.me.spadErr (lane 32 v i) 4)
    ((((upto 16).map (lane 32 v)).find? fun a => s.me.spadErr a 4).getD 0)

/-- 16 words to the scratchpad, in lane order. -/
def Core.spadScatter (k : Core) (v x : V512) : Core :=
  (upto 16).foldl (fun k i => k.vxStore (lane 32 v i) 4 (lane 32 x i)) k

/-- An operation handed to the gather engine: at most one active and four waiting (R179). -/
def Core.gatherFull (k : Core) : Bool := decide (5 ≤ k.ga.ops.length)

/-- Requests that an engine's reads wait for: acquires and everything that writes (log 14). -/
def ReqKind.orders : ReqKind → Bool
  | .load _ | .lane _ | .prefetch _ => false
  | _ => true

/-- The core has such requests. -/
def State.writesPending (s : State) : Bool := (s.reqsOf s.cur).any fun q => q.kind.orders

/-- The executing core's accesses so far stand as program order has them before an engine's: those that write, or all
of them before one that writes memory. None where one has still to be waited for (R176, R190, R223, log 14). -/
def State.settle (s : State) (all : Bool) : Option State :=
  if all && s.me.sg.pass.any (·.pend) then none
  else if (if all then (s.reqsOf s.cur).isEmpty else !s.writesPending) then some s
  else s.settleOn fun _ => true

/-- The wait for them. -/
def State.unsettled (s : State) : Wait := s.waitOn fun r => match r.kind with | .prefetch _ => false | _ => true

/-- The executing core's accesses numbered below an identifier stand as program order has them before an engine's. -/
def State.settleOlder (s : State) (id : Nat) : Option State :=
  if (s.reqsOf s.cur).all fun q => decide (id ≤ q.id) || !q.kind.orders then some s
  else s.settleOn fun q => decide (q.id < id)

/-- An operation handed to the gather engine, which turns to it in the next control cycle when it is idle (R179). -/
def State.queueGather (s : State) (g : GatherOp) : State :=
  let s := s.onMe fun k => { k with ga := { k.ga with ops := k.ga.ops ++ [g] } }
  if s.me.ga.ops.length = 1 then s.schedule (s.now + s.me.cl) (.gatherOpComplete s.cur) else s

/-- A lane of a handle at an offset, not yet requested; whether its line is in the L1 of the executing core (R409). -/
def State.laneOf (s : State) (h : Handle) (off : Nat) : GatherLane := ⟨h.va off, s.me.l1Has (h.pbase + off) 4, 0, none⟩

/-- The batch of one index vector that the vector unit hands over (R149). -/
def State.handedRow (s : State) (h : Handle) (v : V512) (load : Bool) : GatherRow :=
  ⟨none, none, load, [], (upto 16).map fun i => s.laneOf h (lane 32 v i)⟩

/-- An engine's reads are the strand's last read (R314, R315). -/
def State.engineRead (s : State) : State :=
  s.onMe fun k => { k with run := k.run.map fun r => { r with lastRead := 0, readMsgs := [] } }

/-- The words of a memory gather, in lane order, with the cause and address of a faulty reply. -/
def State.gatherWords (s : State) (h : Handle) (v : V512) : State × List Nat × Option (Cause × W64) :=
  (upto 16).foldl (fun (p : State × List Nat × Option (Cause × W64)) i =>
    let off := lane 32 v i
    let (s, x, b) := p.1.readThrough (p.1.who p.1.cur) (h.pbase + off) 4
    (s, p.2.1 ++ [x], p.2.2.or (b.map fun c => (c, h.va off)))) (s, [], none)

/-- A gather through a memory handle: lane requests of the unit, one a control cycle in lane order, or the gather
engine's batch (R148, R149). The bundle freezes until the lanes of the slow path have a request slot each (log 42). -/
def memGather (s : State) (h : Handle) (keep : Bool) (v : V512) : Commit :=
  withDest s .v keep .vxTo fun d =>
    if s.me.pctx.gmode then
      if s.me.gatherFull then .freeze .gather
      else match s.settle false with
      | none => .freeze s.unsettled
      | some s =>
        let row := s.handedRow h v true
        let (fid, s) := s.awaitReply .v d .vx 0
        let (s, l, b) := s.gatherWords h v
        let s := s.onMe fun k => { k with fl := k.fl.map fun f =>
          if f.id = fid then { f with value := pack 32 l, bad := b.map (·.1), va := (b.map (·.2)).getD 0 } else f }
        .ok (s.engineRead.queueGather ⟨some fid, h, [row], none⟩)
    else if slotsFull s 16 then .freeze (s.waitOn fun r => r.kind.takesSlot)
    else
      let (fid, s) := s.awaitReply .v d .vx 0
      let s := s.onMe fun k => { k with fl := k.fl.map fun f => if f.id = fid then { f with lanes := 16 } else f }
      let t := s.laneStart
      .ok ((upto 16).foldl (fun s i =>
        s.makeReqAt (.lane i) (h.pbase + lane 32 v i) 4 0 fid (h.va (lane 32 v i)) h.psz (t + i * s.me.cl) true) s)

/-- A plain write of the strand comes after a release fence (R315). -/
def State.endRelFence (s : State) : State :=
  s.onMe fun k => { k with run := k.run.map fun r => { r with relFence := [] } }

/-- A scatter through a memory handle (R148, R149). -/
def memScatter (s : State) (h : Handle) (v x : V512) : Commit :=
  if s.me.pctx.gmode then
    if s.me.gatherFull then .freeze .gather
    else match s.settle true with
    | none => .freeze s.unsettled
    | some s =>
      let row := s.handedRow h v false
      let s := (upto 16).foldl (fun s i =>
        s.writeThrough (s.who s.cur) (h.pbase + lane 32 v i) 4 (lane 32 x i)) s
      .ok (s.endRelFence.queueGather ⟨none, h, [row], none⟩)
  else if slotsFull s 16 then .freeze (s.waitOn fun r => r.kind.takesSlot)
  else
    let t := s.laneStart
    .ok ((upto 16).foldl (fun s i =>
      s.makeReqAt .store (h.pbase + lane 32 v i) 4 (lane 32 x i) 0 (h.va (lane 32 v i)) h.psz (t + i * s.me.cl) true) s)

def commitVgth (mem : Bool) (keep : Bool) (v : V512) (s : State) : Commit :=
  if mem then
    needPort s .vxH fun hv =>
      let h : Handle := BitVec.ofNat 128 hv.toNat
      match laneCheck v (fun o => checkHandle h s.me.ctx o 4 .r) with
      | some (c, a) => .raise c (some a)
      | none =>
        if h.isSpad then spadGathered s keep v else memGather s h keep v
  else match laneCheck v (fun a => spadCheck a 4) with
    | some (c, a) => .raise c (some a)
    | none => spadGathered s keep v

def commitVsct (mem : Bool) (v : V512) (s : State) : Commit :=
  needPort s .vxX fun x =>
    if mem then
      needPort s .vxH fun hv =>
        let h : Handle := BitVec.ofNat 128 hv.toNat
        match laneCheck v (fun o => checkHandle h s.me.ctx o 4 .w) with
        | some (c, a) => .raise c (some a)
        | none =>
          if h.isSpad then .ok (s.onMe fun k => k.spadScatter v x) else memScatter s h v x
    else match laneCheck v (fun a => spadCheck a 4) with
      | some (c, a) => .raise c (some a)
      | none => .ok (s.onMe fun k => k.spadScatter v x)

/-! ### Deliveries (R132, R148) -/

/-- Vector results due land in trigger order; a gather still to be replied to holds back the later ones. -/
def Core.landVec (k : Core) (now : Nat) : List Flight → Core
  | [] => k
  | f :: r =>
    match f.due with
    | some d => if d ≤ now then Core.landVec (k.landOne f) now r else k
    | none => k

/-- New times of the vector results behind a gather that landed at a time, one cycle apart at least (R132). -/
def redue (cl prev : Nat) : List Flight → List (Nat × Nat)
  | [] => []
  | f :: r =>
    match f.due with
    | some d => let t := Nat.max d (prev + cl); (f.id, t) :: redue cl t r
    | none => []

/-- The vector results behind one that lands at a time follow it, one cycle apart at least (R132). -/
def State.redueBehind (s : State) (c : CoreId) (id t : Nat) : State :=
  let k := s.core c
  let l := redue k.cl t (k.fl.filter fun g => g.unit == .vx && decide (id < g.id))
  let s := s.onCore c fun k => { k with fl := k.fl.map fun g =>
    match (l.find? fun e => e.1 == g.id) with
    | some e => { g with due := some e.2 }
    | none => g }
  l.foldl (fun s e => s.schedule e.2 (.vectorResultDelivery c)) s

/-- A memory gather lands; the results behind it follow (R132, R148). -/
def State.landGather (s : State) (c : CoreId) (f : Flight) : State :=
  (s.onCore c fun k => k.landOne f).redueBehind c f.id s.now

/-- A memory gather lands when no vector result before it is in flight; else it becomes due. -/
def State.gatherDone (s : State) (c : CoreId) (fid : Nat) : State :=
  match (s.core c).fl.find? fun f => f.id == fid with
  | none => s
  | some f =>
    match ((s.core c).fl.filter fun g => g.unit == .vx && decide (g.id < fid)).getLast? with
    | none => s.landGather c f
    | some g =>
      let t := Nat.max s.now (g.due.getD s.now + (s.core c).cl)
      let s := s.onCore c fun k => { k with fl := k.fl.map fun x => if x.id = fid then { x with due := some t } else x }
      (s.schedule t (.vectorResultDelivery c)).redueBehind c fid t

/-- A lane of a gather arrives: a faulty one marks the whole vector (R148, R166). -/
def State.landLane (s : State) (r : Req) (i : Nat) : State :=
  match (s.core r.core).fl.find? fun f => f.id == r.fid with
  | none => s
  | some f =>
    let f' : Flight := { f with
      value := BitVec.ofNat 512 (setBits f.value.toNat (32 * i) 32 r.value)
      lanes := f.lanes - 1
      bad := f.bad.or r.bad
      va := if f.bad.isNone && r.bad.isSome then r.va else f.va }
    let s := s.onCore r.core fun k => { k with fl := k.fl.map fun g => if g.id = f.id then f' else g }
    if f'.lanes = 0 then s.gatherDone r.core f.id else s

/-! ### The steps -/

/-- VADD (R134, R135). -/
def execVadd (t : Vt) (m : Mv) (s : State) : Host.Outcome State Fault Refusal := runMove (.vadd t m) (commitVadd t m.k) s
/-- VSUB (R134, R135). -/
def execVsub (t : Vt) (m : Mv) (s : State) : Host.Outcome State Fault Refusal := runMove (.vsub t m) (commitVsub t m.k) s
/-- VMUL (R134, R135). -/
def execVmul (t : Vt) (m : Mv) (s : State) : Host.Outcome State Fault Refusal := runMove (.vmul t m) (commitVmul t m.k) s
/-- VMIN (R134, R135). -/
def execVmin (t : Vt) (m : Mv) (s : State) : Host.Outcome State Fault Refusal := runMove (.vmin t m) (commitVmin t m.k) s
/-- VMAX (R134, R135). -/
def execVmax (t : Vt) (m : Mv) (s : State) : Host.Outcome State Fault Refusal := runMove (.vmax t m) (commitVmax t m.k) s
/-- VCMPEQ (R137). -/
def execVcmpeq (t : Vt) (m : Mv) (s : State) : Host.Outcome State Fault Refusal := runMove (.vcmpeq t m) (commitVcmpeq t m.k) s
/-- VCMPLT (R137). -/
def execVcmplt (t : Vt) (m : Mv) (s : State) : Host.Outcome State Fault Refusal := runMove (.vcmplt t m) (commitVcmplt t m.k) s
/-- VCMPLE (R137). -/
def execVcmple (t : Vt) (m : Mv) (s : State) : Host.Outcome State Fault Refusal := runMove (.vcmple t m) (commitVcmple t m.k) s
/-- VRSUM (R143). -/
def execVrsum (t : Vt) (m : Mv) (s : State) : Host.Outcome State Fault Refusal := runMove (.vrsum t m) (commitVrsum t m.k) s
/-- VRMAX (R143). -/
def execVrmax (t : Vt) (m : Mv) (s : State) : Host.Outcome State Fault Refusal := runMove (.vrmax t m) (commitVrmax t m.k) s
/-- VRMIN (R143). -/
def execVrmin (t : Vt) (m : Mv) (s : State) : Host.Outcome State Fault Refusal := runMove (.vrmin t m) (commitVrmin t m.k) s
/-- VFMA (R134). -/
def execVfma (t : Ft) (m : Mv) (s : State) : Host.Outcome State Fault Refusal := runMove (.vfma t m) (commitVfma t m.k) s
/-- VFMS (R134). -/
def execVfms (t : Ft) (m : Mv) (s : State) : Host.Outcome State Fault Refusal := runMove (.vfms t m) (commitVfms t m.k) s
/-- VFNMA (R134). -/
def execVfnma (t : Ft) (m : Mv) (s : State) : Host.Outcome State Fault Refusal := runMove (.vfnma t m) (commitVfnma t m.k) s
/-- VCMPUN (R137). -/
def execVcmpun (t : Ft) (m : Mv) (s : State) : Host.Outcome State Fault Refusal := runMove (.vcmpun t m) (commitVcmpun t m.k) s
/-- VABS (R134, R135). -/
def execVabs (t : Va) (m : Mv) (s : State) : Host.Outcome State Fault Refusal := runMove (.vabs t m) (commitVabs t m.k) s
/-- VNEG (R134, R135). -/
def execVneg (t : Va) (m : Mv) (s : State) : Host.Outcome State Fault Refusal := runMove (.vneg t m) (commitVneg t m.k) s
/-- VRCP (R136). -/
def execVrcp (m : Mv) (s : State) : Host.Outcome State Fault Refusal := runMove (.vrcp m) (commitVrcp m.k) s
/-- VRSQRT (R136). -/
def execVrsqrt (m : Mv) (s : State) : Host.Outcome State Fault Refusal := runMove (.vrsqrt m) (commitVrsqrt m.k) s
/-- VEXP2 (R136). -/
def execVexp2 (m : Mv) (s : State) : Host.Outcome State Fault Refusal := runMove (.vexp2 m) (commitVexp2 m.k) s
/-- VLOG2 (R136). -/
def execVlog2 (m : Mv) (s : State) : Host.Outcome State Fault Refusal := runMove (.vlog2 m) (commitVlog2 m.k) s
/-- VSQRT (R136). -/
def execVsqrt (m : Mv) (s : State) : Host.Outcome State Fault Refusal := runMove (.vsqrt m) (commitVsqrt m.k) s
/-- VAND (R140). -/
def execVand (m : Mv) (s : State) : Host.Outcome State Fault Refusal := runMove (.vand m) (commitVand m.k) s
/-- VOR (R140). -/
def execVor (m : Mv) (s : State) : Host.Outcome State Fault Refusal := runMove (.vor m) (commitVor m.k) s
/-- VXOR (R140). -/
def execVxor (m : Mv) (s : State) : Host.Outcome State Fault Refusal := runMove (.vxor m) (commitVxor m.k) s
/-- VSHL (R140). -/
def execVshl (m : Mv) (s : State) : Host.Outcome State Fault Refusal := runMove (.vshl m) (commitVshl m.k) s
/-- VPERM (R144). -/
def execVperm (m : Mv) (s : State) : Host.Outcome State Fault Refusal := runMove (.vperm m) (commitVperm m.k) s
/-- VINS (R144). -/
def execVins (m : Mv) (s : State) : Host.Outcome State Fault Refusal := runMove (.vins m) (commitVins m.k) s
/-- VROT (R144). -/
def execVrot (m : Mv) (s : State) : Host.Outcome State Fault Refusal := runMove (.vrot m) (commitVrot m.k) s
/-- VLD (R145). -/
def execVld (m : Mv) (s : State) : Host.Outcome State Fault Refusal := runMove (.vld m) (commitVld m.k) s
/-- VSEL (R138). -/
def execVsel (f : Bool) (m : Mv) (s : State) : Host.Outcome State Fault Refusal := runMove (.vsel f m) (commitVsel f m.k) s
/-- VSHR (R140). -/
def execVshr (f : Bool) (m : Mv) (s : State) : Host.Outcome State Fault Refusal := runMove (.vshr f m) (commitVshr f m.k) s
/-- VNARROW (R142). -/
def execVnarrow (f : Bool) (m : Mv) (s : State) : Host.Outcome State Fault Refusal := runMove (.vnarrow f m) (commitVnarrow f m.k) s
/-- VWIDEN (R142). -/
def execVwiden (f : Bool) (m : Mv) (s : State) : Host.Outcome State Fault Refusal := runMove (.vwiden f m) (commitVwiden f m.k) s
/-- VBCAST (R144). -/
def execVbcast (f : Bool) (m : Mv) (s : State) : Host.Outcome State Fault Refusal := runMove (.vbcast f m) (commitVbcast f m.k) s
/-- VEXT (R144). -/
def execVext (f : Bool) (m : Mv) (s : State) : Host.Outcome State Fault Refusal := runMove (.vext f m) (commitVext f m.k) s
/-- VGTH (R147, R148). -/
def execVgth (f : Bool) (m : Mv) (s : State) : Host.Outcome State Fault Refusal := runMove (.vgth f m) (commitVgth f m.k) s
/-- VCVT (R141). -/
def execVcvt (c : Cv) (m : Mv) (s : State) : Host.Outcome State Fault Refusal := runMove (.vcvt c m) (commitVcvt c m.k) s
/-- VST (R145). -/
def execVst (m : Mv) (s : State) : Host.Outcome State Fault Refusal := runMove (.vst m) (commitVst) s
/-- VSCT (R147, R148). -/
def execVsct (mem : Bool) (m : Mv) (s : State) : Host.Outcome State Fault Refusal := runMove (.vsct mem m) (commitVsct mem) s
/-- VPL (R139). -/
def execVpl (op : Pl) (m : Mv) (s : State) : Host.Outcome State Fault Refusal := runMove (.vpl op m) (commitVpl op) s

/-- Vector results due now are delivered, flags with them (R132, R133). -/
def execVectorResultDelivery (c : CoreId) (s : State) : Host.Outcome State Fault Refusal :=
  .next (s.onCore c fun k => k.landVec s.now (k.fl.filter fun f => f.unit == .vx))

/-- A lane of a memory gather is replied to (R148). -/
def execGatherLaneReply (req : Nat) (s : State) : Host.Outcome State Fault Refusal :=
  match s.req req with
  | some r =>
    match r.kind with
    | .lane i => if r.served then .next (((s.landLane r i).dropReq req).lsAdvance r.core) else .next s
    | _ => .next s
  | none => .next s

end Sys2Proof.Machine
end

