-- ==== Sys2Proof/Machine/Matrix.lean ====
section
/-! DEFINITION. The matrix engine: tiles, configuration, the transfer, array and drain pipes, scale loads
(R98, R183 to R203). -/

namespace Sys2Proof.Machine

/-! ### Swizzles (R178) -/

/-- Set bits of a 16-bit mask, lowest first. -/
def maskBits (m : Nat) : List Nat := (upto 16).filter fun i => bit m i

/-- The masks of a swizzle register share a bit (R178). -/
def swzBad (z : BitVec 32) : Bool := (bits z.toNat 31 16 &&& bits z.toNat 15 0) != 0

/-- swz(a, z) of R178. -/
def swz (a : Nat) (z : BitVec 32) : Nat :=
  ((maskBits (bits z.toNat 31 16)).zip (maskBits (bits z.toNat 15 0))).foldl
    (fun b p => if bit a (p.2 + 3) then b ^^^ 2 ^ (p.1 + 3) else b) a

/-- n bytes of the scratchpad in 8-byte units under a swizzle (R189). -/
def Core.spadReadZ (k : Core) (z : BitVec 32) (a n : Nat) : Nat :=
  packNat 64 ((upto (n / 8)).map fun i => k.spadRead (swz (a + 8 * i) z) 8)

def Core.spadWriteZ (k : Core) (z : BitVec 32) (a n v : Nat) : Core :=
  (upto (n / 8)).foldl (fun k i => k.spadWrite (swz (a + 8 * i) z) 8 (getBytes v (8 * i) 8)) k

/-! ### Tiles: 0 to 15 m0 to m15, 16 to 19 a0 to a3 (R183, R188) -/

/-- The tile a register name stands for. -/
def tileOf (n : Nat) : Nat := if n < 0xC0 then n - 0xB0 else n - 0xC0 + 16

def Matrix.mt (x : Matrix) (t : Nat) : MTile := x.m[t % 16]'(Nat.mod_lt _ (by decide))
def Matrix.at (x : Matrix) (t : Nat) : ATile := x.a[t % 4]'(Nat.mod_lt _ (by decide))
def Matrix.setM (x : Matrix) (t : Nat) (d : MTile) : Matrix :=
  { x with m := x.m.set (t % 16) d (Nat.mod_lt _ (by decide)) }
def Matrix.setA (x : Matrix) (t : Nat) (d : ATile) : Matrix :=
  { x with a := x.a.set (t % 4) d (Nat.mod_lt _ (by decide)) }
def Matrix.setRp (x : Matrix) (t r : Nat) : Matrix :=
  { x with rp := x.rp.set (t % 20) (BitVec.ofNat 6 r) (Nat.mod_lt _ (by decide)) }
def Matrix.rpOf (x : Matrix) (t : Nat) : Nat := (x.rp[t % 20]'(Nat.mod_lt _ (by decide))).toNat

/-- Format of an m tile under a configuration (R183). -/
def TileCfg.fmtOf (g : TileCfg) (t : Nat) : Fmt := if t < 8 then g.fa else g.fb

/-- Row size in bytes (R189); an m tile has none while the configuration is unset. -/
def Matrix.rowBytes (x : Matrix) (t : Nat) : Option Nat :=
  if 16 ≤ t then some 128
  else x.cfg.map fun g => if (g.fmtOf t).isNibble then 16 else 32

/-! ### Hazards (R184, R185) -/

/-- The pipes. -/
inductive MPipe where | xfer | arr | drn
deriving DecidableEq, Repr

/-- Tiles an array operation reads. -/
def ArrayOp.inputs (o : ArrayOp) : List Nat :=
  match o.kind with
  | .mmac _ a b _ _ _ => [a, b, 16 + o.acc]
  | .mzero => []
  | .mhad => [16 + o.acc]

/-- A pipe other than p has an in-flight writer of a tile. -/
def Matrix.writtenBy (x : Matrix) (p : Option MPipe) (t : Nat) : Bool :=
  (decide (p ≠ some .xfer) && x.xfer.any fun o => o.load && o.tile == t)
    || (decide (p ≠ some .arr) && x.arr.any fun o => 16 + o.acc == t)

/-- A pipe other than p has an in-flight reader of a tile. -/
def Matrix.readBy (x : Matrix) (p : Option MPipe) (t : Nat) : Bool :=
  (decide (p ≠ some .xfer) && x.xfer.any fun o => !o.load && o.tile == t)
    || (decide (p ≠ some .arr) && x.arr.any fun o => o.inputs.contains t)
    || (decide (p ≠ some .drn) && x.drn.any fun o => 16 + o.acc == t)

/-- A trigger of pipe p must wait (R184, R185). -/
def Matrix.hazard (x : Matrix) (p : MPipe) (ins outs : List Nat) : Bool :=
  ins.any (x.writtenBy (some p))
    || outs.any (fun t => x.writtenBy (some p) t || x.readBy (some p) t)
    || decide (4 ≤ (match p with | .xfer => x.xfer.length | .arr => x.arr.length | .drn => x.drn.length))

/-- Operations in flight, MLDC included (R188). -/
def Matrix.inflight (x : Matrix) : Nat := x.xfer.length + x.arr.length + x.drn.length + x.mldc.length

/-- The status word (R188). -/
def Matrix.status (x : Matrix) : Nat :=
  x.inflight * 2 ^ 32 + x.rpOf x.rtile * 2 ^ 16 + x.rtile * 2 ^ 8 + boolCode x.err.isSome * 16
    + boolCode (!x.xfer.isEmpty) + 2 * boolCode (!x.arr.isEmpty) + 4 * boolCode (!x.drn.isEmpty)
    + 8 * boolCode (!x.mldc.isEmpty)

/-- b6 takes the status word (R188). -/
def State.mxStatus (s : State) : State := s.onMe fun k => k.setLatch 6 k.mx.status

def State.onMx (s : State) (f : Matrix → Matrix) : State := s.onMe fun k => { k with mx := f k.mx }

/-- An mx trigger: its freeze, the report of a failed transfer, its effect, the status word (R65, R188,
R191). -/
def mxTrigger (s : State) (wait : Bool) (f : State → Commit) : Commit :=
  if wait then .freeze .mx
  else engineFirst s.me.mx.err .matrix <|
    match f s with
    | .ok s => .ok s.mxStatus
    | o => o

/-- Matrix cycles in control cycles (R184). -/
def Core.mxCycles (k : Core) (n : Nat) : Nat := k.cyclesOf k.pctx.divMat n

/-! ### Configuration (R186, R187) -/

/-- mag(F) as m * 2^e (R187). -/
def fmtMag (F : Fmt) : Nat × Int :=
  if F.ew = 0 then
    (if F.sgn then (2 ^ (F.width - 1), -F.bias) else (2 ^ F.width - 1, -F.bias))
  else F.magValue F.maxMag

/-- PMAX (R187). A format whose only finite magnitude is 0 has no logarithm: the exponents less 1 stand for it
(log 49). -/
def pmaxOf (fa fb : Fmt) : Int :=
  let a := fmtMag fa
  let b := fmtMag fb
  ((bitLen (a.1 * b.1) : Nat) : Int) - 1 + a.2 + b.2

/-- A format register at the bundle's read time (R48). -/
def Core.fRead (k : Core) (i : Nat) : Fmt :=
  let r := if k.bs.committed then k.bs.f0 else k.rf.f
  r[i % 16]'(Nat.mod_lt _ (by decide))

/-- The format registers that an MCFG word names, which MCFG reads as its bundle reads its sources (R48, R165, R166). -/
def mcfgNames (w : Nat) : List Nat := [0xCC + bits w 3 0, 0xCC + bits w 7 4, 0xCC + bits w 11 8]

/-- MCFG (R187). -/
def commitMcfg (v : V512) (s : State) : Commit :=
  let w := sval v
  let k := s.me
  let l := mcfgNames w
  let awaited (f : Flight) : Bool := !k.ofBundle f.id && f.names.any l.contains
  if k.fl.any awaited then .freeze (s.waitFor awaited)
  else mxTrigger s (!(k.mx.xfer.isEmpty && k.mx.arr.isEmpty && k.mx.drn.isEmpty)) fun s =>
   match k.bad.find? fun b => l.contains b.reg.toNat && !k.bs.quiet with
   | some b => .early b.cause b.va (.named l)
   | none =>
    let fa := s.me.fRead (bits w 3 0)
    let fb := s.me.fRead (bits w 7 4)
    let fd := s.me.fRead (bits w 11 8)
    if 2 ^ 12 ≤ w then .raise .illopd none
    else if !fa.consistent || !fb.consistent || !fd.consistent then .raise .fmtreg none
    else .ok (s.onMx fun x => { x with cfg := some ⟨BitVec.ofNat 12 w, fa, fb, fd, pmaxOf fa fb⟩ })

/-! ### Tile loads and stores (R189 to R191) -/

/-- Offset of row r (R189). -/
def rowOff (x : Nat) (y : Int) (r : Nat) : Int := x + r * y

/-- The checks of a transfer of rows row0 to 31 (R189). -/
def transferCheck (k : Core) (h : Handle) (rb x : Nat) (y : Int) (row0 : Nat) (load : Bool) : Option Cause :=
  let rows := (upto 32).filter fun r => decide (row0 ≤ r)
  if !h.v || h.ctx != k.ctx.toNat then some .hstale
  else if x % rb ≠ 0 ∨ y % (rb : Int) ≠ 0 then some .align
  else if rows.any fun r => decide (rowOff x y r < 0) || decide ((h.size : Int) < rowOff x y r + rb)
    then some .hbound
  else if (if load then h.pr else h.pw) then none else some .priv

/-- The tile an operation of the transfer pipe sees: as the loads before it leave it (R185). -/
def Matrix.tileAfter (x : Matrix) (t : Nat) : MTile :=
  match (x.xfer.filter fun o => o.load && o.tile == t).getLast? with
  | some o => o.data
  | none => x.mt t

/-- RP of a tile when an mld:resume starts: behind a load of the tile in flight, which it follows (R189). -/
def Matrix.rpAfter (x : Matrix) (t : Nat) : Nat :=
  if x.xfer.any fun o => o.load && o.tile == t then 32 else x.rpOf t

/-- Row r of a tile, as bytes. -/
def Matrix.rowOf (x : Matrix) (t r : Nat) : Nat :=
  if 16 ≤ t then ((x.at (t - 16))[r % 32]'(Nat.mod_lt _ (by decide))).toNat
  else ((x.tileAfter t)[r % 32]'(Nat.mod_lt _ (by decide))).toNat

/-- Rows of a transfer that are yet to move. -/
def Transfer.unmoved (o : Transfer) : List Nat :=
  o.out.map (·.1) ++ (upto 32).filter fun r => decide (o.next ≤ r)

/-- A row moves: into the tile, whose RP follows, or out of it into the scratchpad (R189). Rows of a memory store have
been written at its commit. -/
def Transfer.moveRow (o : Transfer) (r : Nat) (k : Core) : Core :=
  if o.load then
    let d := (k.mx.mt o.tile).set (r % 32) (o.data[r % 32]'(Nat.mod_lt _ (by decide))) (Nat.mod_lt _ (by decide))
    { k with mx := (k.mx.setM o.tile d).setRp o.tile (r + 1) }
  else if Handle.isSpad o.handle then
    let v := if 16 ≤ o.tile then ((k.mx.at (o.tile - 16))[r % 32]'(Nat.mod_lt _ (by decide))).toNat
      else ((k.mx.mt o.tile)[r % 32]'(Nat.mod_lt _ (by decide))).toNat
    k.spadWriteZ o.z (rowOff o.off o.stride r).toNat o.rb (v % 2 ^ (8 * o.rb))
  else k

/-- A core as its transfer pipe will leave it (R190). -/
def Core.pipeDone (k : Core) : Core :=
  k.mx.xfer.foldl (fun k o => o.unmoved.foldl (fun k r => o.moveRow r k) k) k

/-- A transfer enters its pipe (R184). -/
def State.startTransfer (s : State) (o : Transfer) : State :=
  let k := s.me
  let t := Nat.max k.time k.mx.xferFree
  let idle := k.mx.xfer.all fun q => decide (32 ≤ q.next)
  let s := s.onMx fun x => { x with xfer := x.xfer ++ [{ o with ready := t }] }
  if idle then s.schedule t (.transferRetire s.cur) else s

/-- Rows of a memory load, up to a faulty one (R189, R191). -/
def loadRows (h : Handle) (rb x : Nat) (y : Int) :
    List Nat → State → MTile → State × MTile × Option (Nat × Cause)
  | [], s, d => (s, d, none)
  | r :: l, s, d =>
    let (s, v, b) := s.readThrough (s.who s.cur) (h.pbase + (rowOff x y r).toNat) rb
    match b with
    | some c => (s, d, some (r, c))
    | none =>
      let o := (d[r % 32]'(Nat.mod_lt _ (by decide))).toNat
      loadRows h rb x y l s
        (d.set (r % 32) (BitVec.ofNat 256 (setBits o 0 (8 * rb) v)) (Nat.mod_lt _ (by decide)))

/-- The first row of a scratchpad load with an uncorrectable soft error (R191, R384). -/
def badRow (k : Core) (z : BitVec 32) (rb x : Nat) (y : Int) (l : List Nat) : Option (Nat × Cause) :=
  (l.find? fun r => (upto (rb / 8)).any fun i => k.spadErr (swz ((rowOff x y r).toNat + 8 * i) z) 8).map fun r => (r, .eccunc)

/-- Rows of a scratchpad load, from the scratchpad as the transfers before it will leave it (R190). -/
def loadSpad (k : Core) (z : BitVec 32) (rb x : Nat) (y : Int) (l : List Nat) (d : MTile) : MTile :=
  l.foldl (fun d r =>
    let o := (d[r % 32]'(Nat.mod_lt _ (by decide))).toNat
    d.set (r % 32) (BitVec.ofNat 256 (setBits o 0 (8 * rb) (k.spadReadZ z (rowOff x y r).toNat rb)))
      (Nat.mod_lt _ (by decide))) d

/-- Ports of a transfer, and the checks that come first (R189). -/
def withTransfer (s : State) (t : Nat) (f : Handle → Nat → Nat → Int → BitVec 32 → Commit) : Commit :=
  needPort s .mxH fun hv => needPort s .mxX fun xv => needPort s .mxY fun yv =>
    let h : Handle := BitVec.ofNat 128 hv.toNat
    let z : BitVec 32 := BitVec.ofNat 32 (((s.me.port .mxZ).getD 0).toNat)
    if h.isSpad && ((s.me.port .mxZ).isNone || swzBad z) then .raise .illopd none
    else match s.me.mx.rowBytes t with
      | none => .raise .illopd none
      | some rb => f h rb (sval xv) (sx (sval yv) 64) z

def commitMld (resume : Bool) (v : V512) (s : State) : Commit :=
  let t := tileOf v.toNat
  mxTrigger s (s.me.mx.hazard .xfer [] [t]) fun s => withTransfer s t fun h rb x y z =>
    let row0 := if resume then s.me.mx.rpAfter t else 0
    match transferCheck s.me h rb x y row0 true with
    | some c => .raise c none
    | none =>
      let l := (upto 32).filter fun r => decide (row0 ≤ r)
      let o : Transfer := ⟨true, t, s.me.mx.tileAfter t, h, x, y, rb, z, row0, 0, s.me.cl, [], none, none, []⟩
      let fresh (q : Matrix) : Matrix :=
        if resume || (q.xfer.any fun o => o.load && o.tile == t) then q else q.setRp t 0
      if h.isSpad then
        .ok ((s.onMx fresh).startTransfer { o with
          data := loadSpad s.me.pipeDone z rb x y l o.data
          bad := badRow s.me.pipeDone z rb x y l })
      else match s.settle false with
      | none => .freeze s.unsettled
      | some s =>
        let (s, d, bad) := loadRows h rb x y l s o.data
        .ok ((s.engineRead.onMx fresh).startTransfer { o with data := d, bad := bad })

/-- One row of a memory store through the L1; what it replaces is kept: also what an earlier store in the pipe wrote,
for where that one stops this one is discarded and taken back first (R191). -/
def State.storeRow (s : State) (a n v : Nat) : State × Nat :=
  let w := s.who s.cur
  let s := if s.me.l1Has a n then s else (s.l1Fill w (lineOf a) []).1
  let old := match s.me.l1Find (lineOf a) with | some e => e.get (a % 128) n | none => 0
  (s.writeRow w a n v, old)

/-- Rows stored in memory at commit, with what they replace, the last row first (R190, log 14). -/
def State.storeRows (s : State) (t : Nat) (h : Handle) (rb x : Nat) (y : Int) :
    State × List (Nat × Nat × Nat × Nat) :=
  (upto 32).foldl (fun (p : State × List (Nat × Nat × Nat × Nat)) r =>
    let v := p.1.me.mx.rowOf t r % 2 ^ (8 * rb)
    let a := h.pbase + (rowOff x y r).toNat
    let (s, old) := p.1.storeRow a rb v
    (s, (r, a, rb, old) :: p.2)) (s, [])

def commitMst (v : V512) (s : State) : Commit :=
  let t := tileOf v.toNat
  mxTrigger s (s.me.mx.hazard .xfer [t] []) fun s => withTransfer s t fun h rb x y z =>
    match transferCheck s.me h rb x y 0 false with
    | some c => .raise c none
    | none =>
      let o : Transfer := ⟨false, t, Vector.replicate 32 0, h, x, y, rb, z, 0, 0, s.me.cl, [], none, none, []⟩
      if h.isSpad then .ok (s.startTransfer { o with rowTime := (if 16 ≤ t then 2 else 1) * s.me.cl })
      else match s.settle true with
      | none => .freeze s.unsettled
      | some s =>
        let (s, undo) := s.storeRows t h rb x y
        .ok (s.endRelFence.startTransfer { o with undo := undo })

/-- Rows of a memory store from row r on are taken back, the last first: they were not written (R191). -/
def State.undoStore (s : State) (c : CoreId) (o : Transfer) (r : Nat) : State :=
  (o.undo.filter fun u => decide (r ≤ u.1)).foldl (fun s u => s.writeRow (s.who c) u.2.1 u.2.2.1 u.2.2.2) s

/-- Rows whose replies have come move, unless the pipe's order holds them; at a faulty one the transfer stops (R189,
R191). -/
def Transfer.land (o : Transfer) (now : Nat) (held : Bool) (k : Core) : Transfer × Core :=
  let ripe := if held then [] else (o.out.takeWhile fun e => decide (e.2.1 ≤ now)).map (·.1)
  let rest := o.out.drop ripe.length
  match o.bad with
  | some (r, c) =>
    if ripe.contains r then
      ({ o with out := [], stop := some (r, c) }, (ripe.takeWhile (· != r)).foldl (fun k r => o.moveRow r k) k)
    else ({ o with out := rest }, ripe.foldl (fun k r => o.moveRow r k) k)
  | none => ({ o with out := rest }, ripe.foldl (fun k r => o.moveRow r k) k)

/-- The transfer has stopped and its rows issued before have completed (R191). -/
def Transfer.halted (o : Transfer) : Bool := o.stop.isSome && o.out.isEmpty

/-- Every row has moved (R184). -/
def Transfer.over (o : Transfer) (now : Nat) : Bool :=
  decide (32 ≤ o.next) && o.out.isEmpty && o.stop.isNone && decide (o.ready ≤ now)

/-- The transfer issues its next row: not when its page has been revoked, nor without a request slot (R164, R184,
R191). -/
def State.issueRow (s : State) (c : CoreId) (o : Transfer) : State × Transfer :=
  let k := s.core c
  let mem := !Handle.isSpad o.handle
  if mem && !Handle.v o.handle then (s, { o with stop := some (o.next, .hstale) })
  else if mem && s.noSlots c 1 then
    (s.schedule (s.now + k.cl) (.transferRetire c), { o with ready := s.now + k.cl })
  else
    let last := o.out.foldl (fun m e => Nat.max m e.2.1) 0
    let (d, s) := if mem then s.takeDelay Config.guideSlice else (o.rowTime + 4 * k.cl, s)
    let u := Nat.max (s.now + Nat.max d (4 * k.cl)) last
    let t := s.now + o.rowTime
    let s := s.onCore c fun k => { k with mx :=
      let x := if o.load && o.out.isEmpty then k.mx.setRp o.tile o.next else k.mx
      { x with xferFree := t } }
    ((s.schedule u (.transferRetire c)).schedule t (.transferRetire c),
      { o with out := o.out ++ [(o.next, u, s.now)], next := o.next + 1, ready := t })

/-- A turn of the transfer pipe: rows whose replies have come move, those of a tile that an earlier load still fills
after it; the first transfer with rows to issue issues one; and those that are over retire (R184, R189, R191). -/
def State.transferTurn (s : State) (c : CoreId) : State :=
  let s := s.onCore c fun k =>
    let (l, k) := k.mx.xfer.foldl (fun (p : List Transfer × Core) o =>
      let held := p.1.any fun q => q.load && q.tile == o.tile && !q.over s.now
      let (o, k) := o.land s.now held p.2
      (p.1 ++ [o], k)) ([], k)
    { k with mx := { k.mx with xfer := l } }
  let l := (s.core c).mx.xfer
  let done := l.takeWhile fun o => decide (32 ≤ o.next) && o.stop.isNone
  let (s, l) := match l.drop done.length with
    | o :: r =>
      if o.stop.isNone && decide (Nat.max o.ready (s.core c).mx.xferFree ≤ s.now) then
        let (s, o) := s.issueRow c o
        (s, done ++ o :: r)
      else (s, l)
    | [] => (s, l)
  let keep := l.filter fun o => !o.over s.now
  let s := s.onCore c fun k => { k with mx := { k.mx with xfer := keep } }
  let s := if keep.any Transfer.halted then s.schedule s.now (.transferStop c) else s
  if keep.length = l.length then s else s.lsAdvance c

/-- A transfer stops at a row (R191): its tile is freed, RP of a load's tile stays at the first row not written, the
cause is recorded, and the transfers behind it are discarded. R191 gives RP to a load alone: a store leaves RP, and with
it ROWP, as it stands, and its row shows in the fault address (log 18). -/
def State.stopTransfer (s : State) (c : CoreId) (o : Transfer) (r : Nat) (cause : Cause) (behind : List Transfer) :
    State :=
  let s := (behind.filter fun q => !q.load).reverse.foldl (fun s q => s.undoStore c q q.next) s
  let s := if o.load then s else s.undoStore c o r
  (s.onCore c fun k => { k with mx :=
    let x := if o.load then k.mx.setRp o.tile r else k.mx
    { x with
      xfer := x.xfer.takeWhile fun q => !q.halted
      rtile := o.tile
      err := some (cause, BitVec.ofInt 64 (rowOff o.off o.stride r)) } }).lsAdvance c

/-! ### Scale loads (R192) -/

/-- n bytes of the scratchpad as they stood before the bundle's vector stores. -/
def Core.spadBefore (k : Core) (a n : Nat) : Nat :=
  (k.bs.vxOld.reverse.foldl (fun k (e : Nat × Nat × Nat) => k.spadWrite e.1 e.2.1 e.2.2) k).spadRead a n

def commitMldc (v : V512) (s : State) : Commit :=
  mxTrigger s false fun s => needPort s .mxH fun hv => needPort s .mxX fun xv =>
    let h : Handle := BitVec.ofNat 128 hv.toNat
    if !h.isSpad then .raise .illopd none
    else if !h.v || h.ctx != s.me.ctx.toNat then .raise .hstale none
    else if sval xv % 64 ≠ 0 then .raise .align none
    else if 0x80000 ≤ sval xv then .raise .hbound none
    else
      let t := s.me.time + 6 * s.me.cl
      let d : V512 := BitVec.ofNat 512 (s.me.spadBefore (sval xv) 64)
      .ok ((s.onMx fun x => { x with mldc := x.mldc ++ [(nameIndex v.toNat, d, t)] }).schedule t (.mldcLand s.cur))

/-! ### Array operations (R193 to R196) -/

/-- A window: its sum in units of lsb, its special value, its flags (R194). -/
structure Win where
  win : Int
  sp : Option FVal
  fl : Flags
deriving DecidableEq, Repr

/-- join of R194. -/
def joinInf (w : Win) (b : Bool) : Win :=
  match w.sp with
  | none => { w with sp := some (.inf b) }
  | some (.inf a) => if a = b then w else { w with sp := some .nan, fl := w.fl ||| Flags.nv }
  | some _ => w

/-- One product of a window (R194): lsb is 2^e. -/
def winStep (e : Int) (w : Win) (x y : FVal) : Win :=
  match x, y with
  | .nan, _ => { w with sp := some .nan }
  | _, .nan => { w with sp := some .nan }
  | .inf a, .inf b => joinInf w (a != b)
  | .inf a, .fin b m _ => if m = 0 then { w with sp := some .nan, fl := w.fl ||| Flags.nv } else joinInf w (a != b)
  | .fin a m _, .inf b => if m = 0 then { w with sp := some .nan, fl := w.fl ||| Flags.nv } else joinInf w (a != b)
  | .fin a m f, .fin b n g =>
    let q := f + g - e
    let t := if 0 ≤ q then m * n * 2 ^ q.toNat else m * n / 2 ^ (-q).toNat
    { w with win := w.win + (if a != b then -(t : Int) else t) }

/-- The products of one window under its scale codes (R194). -/
def winSum (e : Int) (ka kb : Nat) (l : List (FVal × FVal)) : Win :=
  if ka = 255 ∨ kb = 255 then ⟨0, some .nan, Flags.sn⟩
  else l.foldl (fun w p => winStep e w p.1 p.2) ⟨0, none, 0⟩

/-- The promotion of a window into an accumulator cell (R194). -/
def promote (pmax : Int) (ka kb : Nat) (acc : Nat) (w : Win) : Nat × Flags :=
  let lim : Int := (2 ^ 39 : Nat)
  let n := sat w.win (-lim) (lim - 1)
  let ws : Flags := if n = w.win then 0 else Flags.ws
  match w.sp with
  | some .nan => (0x7FC00000, w.fl ||| ws)
  | some i => let r := fAdd fp32 .rne (fp32.value acc) i; (r.1, r.2 ||| w.fl ||| ws)
  | none =>
    let r := fAdd fp32 .rne (fp32.value acc) (.fin (decide (n < 0)) n.natAbs (pmax - 31 + ka + kb - 254))
    (r.1, r.2 ||| w.fl ||| ws)

/-- Windows w, w + 1, … of p products each (R194). -/
def cellWindows (pmax : Int) (p : Nat) (ka kb : Nat → Nat) : Nat → Nat → List (FVal × FVal) → Nat × Flags → Nat × Flags
  | 0, _, _, a => a
  | n + 1, w, l, a =>
    let blk := w * p / 16
    let r := promote pmax (ka blk) (kb blk) a.1 (winSum (pmax - 31) (ka blk) (kb blk) (l.take p))
    cellWindows pmax p ka kb n (w + 1) (l.drop p) (r.1, a.2 ||| r.2)

/-- The element values of a tile's rows (R183). -/
def tileValues (F : Fmt) (t : MTile) : List (List FVal) :=
  t.toList.map fun r => (upto 32).map fun e => F.value (narrowAt F r.toNat e)

/-- Row i of an accumulator after an MMAC, with flags (R194). -/
def mmacRow (g : TileCfg) (p : Nat) (ka kb : V512) (i : Nat) (x : List FVal) (ys : List (List FVal))
    (old : BitVec 1024) : Nat × Flags :=
  let l := (upto 32).zip ys |>.map fun jy =>
    cellWindows g.pmax p (fun b => getBytes ka.toNat (2 * i + b) 1) (fun b => getBytes kb.toNat (2 * jy.1 + b) 1)
      (32 / p) 0 (x.zip jy.2) (getBytes old.toNat (4 * jy.1) 4, 0)
  (packNat 32 (l.map (·.1)), l.foldl (fun a r => a ||| r.2) 0)

/-- A tile from rows. -/
def atileOf (l : List Nat) : ATile := Vector.ofFn fun i => BitVec.ofNat 1024 (l.getD i.val 0)

/-- A += B of an MMAC (R194). -/
def mmacTile (g : TileCfg) (p : Nat) (a b : MTile) (ka kb : V512) (old : ATile) : ATile × Flags :=
  let ys := tileValues g.fb b
  let l := (upto 32).zip ((tileValues g.fa a).zip old.toList) |>.map fun r => mmacRow g p ka kb r.1 r.2.1 ys r.2.2
  (atileOf (l.map (·.1)), l.foldl (fun a r => a ||| r.2) 0)

/-- One butterfly stage of a row of FP32 cells (R196). -/
def hadStage (st : Nat) (row : List Nat) : List (Nat × Flags) :=
  let d := 2 ^ st
  (upto 32).map fun e =>
    if bit e st then fAdd fp32 .rne (fp32.value (row.getD (e - d) 0)) (fp32.value (row.getD e 0)).neg
    else fAdd fp32 .rne (fp32.value (row.getD e 0)) (fp32.value (row.getD (e + d) 0))

/-- A row through the five stages (R196). -/
def hadRow (row : List Nat) : List Nat × Flags :=
  (upto 5).foldl (fun (p : List Nat × Flags) st =>
    let r := hadStage st p.1
    (r.map (·.1), r.foldl (fun a e => a ||| e.2) p.2)) (row, 0)

/-- The Hadamard pass over an accumulator (R196). -/
def hadTile (old : ATile) : ATile × Flags :=
  let l := old.toList.map fun r => hadRow ((upto 32).map fun j => getBytes r.toNat (4 * j) 4)
  (atileOf (l.map fun r => packNat 32 r.1), l.foldl (fun a r => a ||| r.2) 0)

/-- An array operation takes effect (R193, R196). -/
def ArrayOp.run (o : ArrayOp) (x : Matrix) : Matrix × Flags :=
  let (t, f) : ATile × Flags := match o.kind with
    | .mzero => (Vector.replicate 32 0, 0)
    | .mhad => hadTile (x.at o.acc)
    | .mmac p a b ka kb g => mmacTile g p (x.mt a) (x.mt b) ka kb (x.at o.acc)
  (x.setA o.acc t, f)

/-- An operation enters the array pipe; occ and lat in matrix cycles (R184). -/
def State.startArray (s : State) (acc : Nat) (kind : ArrayKind) (occ lat : Nat) : State :=
  let k := s.me
  let start := Nat.max k.mx.clk k.mx.arrFree
  s.onMx fun x => { x with
    arr := x.arr ++ [⟨acc, kind, start + k.mxCycles lat, none⟩]
    arrFree := start + k.mxCycles occ }

/-- P of an MMAC (R193). -/
def pwSteps : Pw → Nat | .p1 => 1 | .p2 => 2 | .p4 => 4 | .p8 => 8 | .p16 => 16

def commitMmac (p : Pw) (v : V512) (s : State) : Commit :=
  let acc := nameIndex v.toNat
  let tiles := [Port.mxA, Port.mxB].filterMap fun q => (s.me.port q).map fun n => tileOf n.toNat
  mxTrigger s (s.me.mx.hazard .arr (tiles ++ [16 + acc]) [16 + acc]) fun s =>
    match s.me.mx.cfg with
    | none => .raise .illopd none
    | some g =>
      needPort s .mxA fun a => needPort s .mxB fun b => needPort s .mxCa fun ka => needPort s .mxCb fun kb =>
        let ta := tileOf a.toNat
        let tb := tileOf b.toNat
        if 8 ≤ ta ∨ tb < 8 ∨ 16 ≤ tb then .raise .illopd none
        else
          let occ := if fmtWidth g.fa ≤ 4 ∧ fmtWidth g.fb ≤ 4 then 4 else 8
          .ok (s.startArray acc (.mmac (pwSteps p) ta tb ka kb g) occ (occ + 4))

def commitMzero (v : V512) (s : State) : Commit :=
  let acc := nameIndex v.toNat
  mxTrigger s (s.me.mx.hazard .arr [] [16 + acc]) fun s => .ok (s.startArray acc .mzero 1 1)

def commitMhad (v : V512) (s : State) : Commit :=
  let acc := nameIndex v.toNat
  mxTrigger s (s.me.mx.hazard .arr [16 + acc] [16 + acc]) fun s => .ok (s.startArray acc .mhad 10 10)

/-! ### Drain (R197 to R200) -/

/-- Smallest positive magnitude of a format (R198); of one that has none, what its first code that is not finite would
have (log 49). -/
def fmtMin (F : Fmt) : Nat × Int :=
  if F.ew = 0 then (1, -F.bias)
  else if F.sub ∧ F.mw ≠ 0 then F.magValue 1 else F.magValue (2 ^ F.mw)

/-- sat(k) and unf(k) over the finite cells of a block (R198). -/
def drainCounts (F : Fmt) (xs : List FVal) (k : Nat) : Nat × Nat :=
  let mu := fmtMin F
  let r := xs.filterMap fun x => match x with
    | .fin s m _ =>
      let c := encode F s x k
      let small := m != 0 && (match Fmt.value F c.code with
        | .fin _ n g => dyGt (mu.1 * 2 ^ F.uth) mu.2 n g
        | _ => false)
      some (c.ovf, small)
    | _ => none
  ((r.filter (·.1)).length, (r.filter (·.2)).length)

/-- The scale code a drain chooses (R198). -/
def drainScale (F : Fmt) (xs : List FVal) : Nat :=
  let s0 := ((upto 255).find? fun k => (drainCounts F xs k).1 == 0).getD 254
  if 1 ≤ s0 then
    let a := drainCounts F xs (s0 - 1)
    if a.1 ≤ F.sbud ∧ a.2 < (drainCounts F xs s0).2 then s0 - 1 else s0
  else s0

/-- A block drained: codes, scale code, count byte, flags (R198, R199). -/
def drainBlock (F : Fmt) (cells : List Nat) : List Nat × Nat × Nat × Flags :=
  let xs := cells.map fp32.value
  let k := drainScale F xs
  let r := cells.map fun c => encode F (bit c 31) (fp32.value c) k
  let n := drainCounts F xs k
  (r.map (·.code), k, Nat.min n.1 15 * 16 + Nat.min n.2 15, r.foldl (fun a e => a ||| e.flags) 0)

/-- The entry of row r (R199). -/
def drainEntry (F : Fmt) (acc r : Nat) (row : BitVec 1024) : V512 × Flags :=
  let cells := (upto 32).map fun j => getBytes row.toNat (4 * j) 4
  let a := drainBlock F (cells.take 16)
  let b := drainBlock F (cells.drop 16)
  (BitVec.ofNat 512 (packNarrow F (a.1 ++ b.1) + 2 ^ 256 * a.2.1 + 2 ^ 264 * b.2.1 + 2 ^ 272 * a.2.2.1
    + 2 ^ 280 * b.2.2.1 + 2 ^ 288 * r + 2 ^ 296 * acc), a.2.2.2 ||| b.2.2.2)

def commitMdrain (q1 : Bool) (v : V512) (s : State) : Commit :=
  let acc := nameIndex v.toNat
  mxTrigger s (s.me.mx.hazard .drn [16 + acc] []) fun s =>
    let k := s.me
    match k.mx.cfg with
    | none => .raise .illopd none
    | some g =>
      let used := if q1 then k.q1.length + k.resv1 else k.q0.length + k.resv0
      if 64 < used + 32 then .raise .qfull none
      else
        let start := Nat.max k.mx.clk k.mx.drnFree
        let s := s.onMx fun x => { x with
          drn := x.drn ++ [⟨acc, q1, g, start, 0, start + k.mxCycles 36, 0, k.pctx.divMat, k.pctx.divCtl⟩]
          drnFree := start + k.mxCycles 32 }
        .ok (s.onMe fun k => if q1 then { k with resv1 := k.resv1 + 32 } else { k with resv0 := k.resv0 + 32 })

/-- The rows of a drain due by an engine cycle enter their queue (R197, R200). -/
def pushRows (n : Nat) : Nat → Drain → Core → Drain × Core
  | 0, d, k => (d, k)
  | m + 1, d, k =>
    if d.next < 32 ∧ d.rowAt d.next ≤ n then
      let row := (k.mx.at d.acc)[d.next % 32]'(Nat.mod_lt _ (by decide))
      let e := drainEntry d.cfg.fd d.acc d.next row
      let k := if d.q1 then { k with q1 := k.q1 ++ [⟨e.1, 0, false⟩], resv1 := k.resv1 - 1 }
        else { k with q0 := k.q0 ++ [⟨e.1, 0, false⟩], resv0 := k.resv0 - 1 }
      pushRows n m { d with next := d.next + 1, flags := d.flags ||| e.2 } k
    else (d, k)

/-- Every drain of a core pushes what is due. -/
def Core.pushDrains (k : Core) : Core :=
  let r := k.mx.drn.foldl (fun (p : List Drain × Core) d =>
    let (d, k) := pushRows k.mx.clk 32 d p.2
    (p.1 ++ [d], k)) ([], k)
  { r.2 with mx := { r.2.mx with drn := r.1 } }

def commitMwait (v : V512) (s : State) : Commit :=
  let t := tileOf v.toNat
  mxTrigger s (s.me.mx.writtenBy none t || s.me.mx.readBy none t) fun s => .ok s

/-! ### The steps -/

/-- MLD (R189). -/
def execMld (resume : Bool) (m : Mv) (s : State) : Host.Outcome State Fault Refusal :=
  runMove (.mld resume m) (commitMld resume) s
/-- MST (R189). -/
def execMst (m : Mv) (s : State) : Host.Outcome State Fault Refusal := runMove (.mst m) commitMst s
/-- MMAC (R193). -/
def execMmac (p : Pw) (m : Mv) (s : State) : Host.Outcome State Fault Refusal := runMove (.mmac p m) (commitMmac p) s
/-- MZERO (R193). -/
def execMzero (m : Mv) (s : State) : Host.Outcome State Fault Refusal := runMove (.mzero m) commitMzero s
/-- MHAD (R196). -/
def execMhad (m : Mv) (s : State) : Host.Outcome State Fault Refusal := runMove (.mhad m) commitMhad s
/-- MDRAIN (R197). -/
def execMdrain (q1 : Bool) (m : Mv) (s : State) : Host.Outcome State Fault Refusal :=
  runMove (.mdrain q1 m) (commitMdrain q1) s
/-- MCFG (R187). -/
def execMcfg (m : Mv) (s : State) : Host.Outcome State Fault Refusal := runMove (.mcfg m) commitMcfg s
/-- MLDC (R192). -/
def execMldc (m : Mv) (s : State) : Host.Outcome State Fault Refusal := runMove (.mldc m) commitMldc s
/-- MWAIT (R201). -/
def execMwait (m : Mv) (s : State) : Host.Outcome State Fault Refusal := runMove (.mwait m) commitMwait s

/-- A turn of the transfer pipe, in which its oldest transfers may retire (R184). -/
def execTransferRetire (c : CoreId) (s : State) : Host.Outcome State Fault Refusal := .next (s.transferTurn c)

/-- The first transfer that has stopped does what R191 gives. -/
def execTransferStop (c : CoreId) (s : State) : Host.Outcome State Fault Refusal :=
  match (s.core c).mx.xfer.dropWhile fun o => !o.halted with
  | o :: r =>
    match o.stop with
    | some (i, cause) => .next (s.stopTransfer c o i cause r)
    | none => .next s
  | [] => .next s

/-- The array operations of an engine cycle, oldest first: one whose cycle has come retires with its flags, and takes
effect now unless it already has; one before it on its accumulator takes effect first, and retires in a cycle of its own
(R184, R195). Gives the operations that stay in flight. -/
def runArray : List ArrayOp → Core → List ArrayOp × Core
  | [], k => ([], k)
  | o :: l, k =>
    let due (q : ArrayOp) : Bool := decide (q.retire ≤ k.mx.clk)
    let acts := o.ran.isNone && (due o || l.any fun q => due q && q.acc == o.acc)
    let (x, f) := if acts then o.run k.mx else (k.mx, o.ran.getD 0)
    let k := { k with mx := x }
    if due o then runArray l (k.setFlags f)
    else
      let (l, k) := runArray l k
      ({ o with ran := if acts then some f else o.ran } :: l, k)

/-- Array operations due retire (R184, R195). -/
def execArrayRetire (c : CoreId) (s : State) : Host.Outcome State Fault Refusal :=
  .next (s.onCore c fun k =>
    let (l, k) := runArray k.mx.arr k
    { k with mx := { k.mx with arr := l } })

/-- Rows due enter the result queues (R200). -/
def execDrainRowPush (c : CoreId) (s : State) : Host.Outcome State Fault Refusal :=
  .next (s.onCore c Core.pushDrains)

/-- A drain retires with its flags (R198). -/
def execDrainRetire (c : CoreId) (s : State) : Host.Outcome State Fault Refusal :=
  .next (s.onCore c fun k =>
    let done := k.mx.drn.filter fun d => decide (d.retire ≤ k.mx.clk) && decide (32 ≤ d.next)
    ({ k with mx := { k.mx with drn := k.mx.drn.filter fun d => !done.contains d } }).setFlags
      (done.foldl (fun (a : Flags) (d : Drain) => a ||| d.flags) 0))

/-- Scale loads land (R192). A change of the control divisor moves their time (`State.retimeMldc`). -/
def execMldcLand (c : CoreId) (s : State) : Host.Outcome State Fault Refusal :=
  .next (s.onCore c fun k =>
    let due := k.mx.mldc.filter fun e => decide (e.2.2 ≤ s.now)
    let k := due.foldl (fun k e => k.writeRegs 0 0 (0xC4 + e.1) 1 e.2.1.toNat) k
    { k with mx := { k.mx with mldc := k.mx.mldc.filter fun e => !decide (e.2.2 ≤ s.now) } })

end Sys2Proof.Machine
end

