-- ==== Sys2Proof/Machine/Sedge.lean ====
section
/-! DEFINITION. The Sedge rule engine (R99, R204 to R223). -/

namespace Sys2Proof.Machine

/-! ### Symbols (R205) -/

/-- A symbol of a grammar. -/
inductive Sym where
  | term (col code : Nat)
  | ref (slot : Nat)
  | define (slot depth : Nat)
  | endRule
  | endRow
  | endPass
  | bad
deriving DecidableEq, Repr

/-- The symbol a 32-bit word stands for. -/
def symOf (w : Nat) : Sym :=
  match bits w 31 30 with
  | 0 => .term (bits w 29 8) (bits w 7 0)
  | 1 => if bits w 29 11 = 0 then .ref (bits w 10 0) else .bad
  | 2 => if bits w 29 16 = 0 then .define (bits w 10 0) (bits w 15 11) else .bad
  | _ => if bits w 29 2 ≠ 0 then .bad
    else match bits w 1 0 with
      | 0 => .endRule
      | 1 => .endRow
      | 2 => .endPass
      | _ => .bad

/-! ### Lines of the grammar (R204, R214) -/

/-- Byte offset of symbol i within the page. -/
def Pass.symOff (p : Pass) (i : Nat) : Nat := p.off + 16 + 4 * i

/-- Line of a byte offset, counted from the header's line. -/
def Pass.lineOf (p : Pass) (o : Nat) : Nat := o / 128 - p.off / 128

/-- An arrived line. -/
def Pass.line (p : Pass) (i : Nat) : Option (BitVec 1024 × Option Cause) :=
  (p.lines.find? fun e => e.1 == i).map (·.2)

/-- Lines of a grammar of n symbols that lie in its page. -/
def lineCount (h : Handle) (off n : Nat) : Nat :=
  Nat.min ((off % 128 + 16 + 4 * n + 127) / 128) ((h.size - off / 128 * 128) / 128)

/-- Issue begins in the next engine cycle once the header's line and the first symbol's have arrived (R214, R221). -/
def Pass.begin (p : Pass) (clk : Nat) : Pass :=
  let ready := match p.line 0 with
    | none => false
    | some (d, b) => b.isSome || (p.line (p.lineOf (p.symOff 0))).isSome
        || bits (getBytes d.toNat (p.off % 128) 16) 55 32 == 0 || decide (Handle.size p.handle < p.symOff 0 + 4)
  if ready && p.issueFrom.isNone then { p with issueFrom := some (clk + 1) } else p

/-- Lines wholly issued. -/
def Pass.issued (p : Pass) : Nat := if p.hdrRead then p.lineOf (p.symOff p.pos) else 0

/-! ### The state word (R209) -/

def Core.sgStatus (k : Core) : Nat :=
  k.sg.passes.toNat * 2 ^ 32 + (match k.sg.err with | some (c, _) => c.code * 2 ^ 16 + 16 | none => 0)
    + k.pctx.lim % 32 * 256
    + (match k.sg.pass with | some p => 4 * boolCode p.stalled + 1 | none => 0)

def State.onSg (s : State) (f : Sedge → Sedge) : State := s.onMe fun k => { k with sg := f k.sg }

/-- An sg trigger: its freeze, the report of a failed pass, its effect, the state word in b7 (R208, R220). -/
def sgTrigger (s : State) (wait : Bool) (f : State → Commit) : Commit :=
  if wait then .freeze .sg
  else engineFirst s.me.sg.err .sedge <|
    match f s with
    | .ok s => .ok (s.onMe fun k => k.setLatch 7 k.sgStatus)
    | o => o

def commitSgLim (v : V512) (s : State) : Commit :=
  sgTrigger s false fun s =>
    if sval v = 0 ∨ 31 < sval v then .raise .illopd none
    else .ok (s.onMe fun k => k.onPctx fun p => { p with lim := sval v })

def commitSgScl (v : V512) (s : State) : Commit :=
  sgTrigger s false fun s =>
    if 2 ^ 32 ≤ sval v then .raise .illopd none
    else .ok (s.onMe fun k => k.onPctx fun p => { p with scl := BitVec.ofNat 32 (sval v) })

/-- Lines i, i + 1, … of the grammar read through the L1, with whether each hits (R223). -/
def readGrammar (h : Handle) (base : Nat) : Nat → Nat → State → List (Nat × BitVec 1024 × Option Cause × Bool) →
    State × List (Nat × BitVec 1024 × Option Cause × Bool)
  | 0, _, s, l => (s, l)
  | n + 1, i, s, l =>
    let a := h.pbase + base + 128 * i
    let hit := s.me.l1Has a 128
    let (s, v, b) := s.readThrough (s.who s.cur) a 128
    readGrammar h base n (i + 1) s (l ++ [(i, BitVec.ofNat 1024 v, b, hit)])

/-- A line request, once a request slot is free: the line arrives 4 control cycles later when it hits, or after an open
delay (R162, R164, R214, R409); a line of a revoked page arrives at once as HSTALE (R221). -/
def State.askLine (s : State) (c : CoreId) : State :=
  let k := s.core c
  match k.sg.pass with
  | none => s
  | some p =>
    match p.saved.find? fun e => e.1 == p.asked with
    | none => s
    | some (i, _, _, hit) =>
      if !Handle.v p.handle then
        s.onCore c fun k => { k with sg := { k.sg with pass := some (({ p with
          asked := i + 1, lines := p.lines ++ [(i, 0, some .hstale)] } : Pass).begin k.sg.clk) } }
      else if s.noSlots c 1 then s
      else
        let (d, s) := if hit then (4 * k.cl, s) else s.takeDelay Config.guideSlice
        let t := Nat.max s.now k.time + Nat.max d (4 * k.cl)
        (s.onCore c fun k => { k with sg := { k.sg with pass := some { p with
          asked := i + 1, flying := p.flying ++ [(i, t, s.now)] } } }).schedule t (.sedgeLineArrive c)

/-- The grammar of a pass is read, in its place in program order: after the accesses the strand made before it (R223),
of which plain ones are made first. While one of them is an acquire, a release or an operation still to be performed,
the engine waits, and looks again in the next control cycle (R317, R328, log 14). -/
def State.beginPass (s : State) (c : CoreId) : State :=
  let s : State := { s with cur := c }
  match s.me.sg.pass with
  | none => s
  | some p =>
    match s.settleOlder p.since with
    | none => s.schedule (s.now + s.me.cl) (.sedgeLineArrive c)
    | some s =>
      let b := p.off / 128 * 128
      let (s, l0) := readGrammar p.handle b 1 0 s []
      let hdr := match l0 with | (_, d, _, _) :: _ => getBytes d.toNat (p.off % 128) 16 | [] => 0
      let n := lineCount p.handle p.off (bits hdr 55 32)
      let (s, l) := readGrammar p.handle b (n - 1) 1 s l0
      ((s.onSg fun g => { g with pass := some { p with pend := false, saved := l } }).askLine c).lsAdvance c

def commitSgPass (v : V512) (s : State) : Commit :=
  sgTrigger s s.me.sg.pass.isSome fun s =>
    needPort s .sgH fun hv => needPort s .sgX fun xv => needPort s .sgXb fun bv =>
      let h : Handle := BitVec.ofNat 128 hv.toNat
      let x := sval xv
      let xb := sval bv
      if h.isSpad ∨ 2 ^ 32 ≤ sval v then .raise .illopd none
      else if !h.v || h.ctx != s.me.ctx.toNat then .raise .hstale none
      else if x % 16 ≠ 0 ∨ xb % 64 ≠ 0 then .raise .align none
      else if h.size < x + 16 ∨ 0x80000 ≤ xb then .raise .hbound none
      else if !h.pr then .raise .priv none
      else
        let p : Pass := {
          handle := h, off := x, xb := xb, lim := s.me.pctx.lim, scl := s.me.pctx.scl, hdrRead := false
          tfmt := 0, nsym := 0, pos := 0, idx := BitVec.ofNat 32 (sval v), opened := none, dep := 0, acc := 0
          row := 0, rowUsed := false, rules := [], flags := 0, rows := 0, since := s.nextId, pend := true, asked := 0
          flying := [], lines := [], saved := [], pushes := [], lastPush := 0, issueFrom := none, finish := none
          fail := none, stalled := false, skip := false }
        .ok ((s.engineRead.onSg fun g => { g with pass := some p, syms := 0, rows := 0 }).beginPass s.cur)

def commitSgStat (f : SgField) (keep : Bool) (_v : V512) (s : State) : Commit :=
  engineFirst s.me.sg.err .sedge <|
    if !keep then .raise .illopd none
    else
      let g := s.me.sg
      .ok (s.onMe fun k => k.setLatch 7 (match f with
        | .state => k.sgStatus
        | .syms => (match g.pass with | some p => p.pos | none => g.syms)
        | .rows => (match g.pass with | some p => p.rows.toNat | none => g.rows.toNat)))

/-- sg.wait raises QFULL when it waits on a pass stalled on a full q2 (R219). -/
def commitSgWait (_v : V512) (s : State) : Commit :=
  match s.me.sg.pass with
  | some p => if p.stalled then .early .qfull (BitVec.ofNat 64 s.takeFree.1) .nothing else .freeze .sg
  | none => sgTrigger s false fun s => .ok s

/-! ### Issue (R212 to R215) -/

/-- 16 FP32 lanes combined with the flags of the lanes. -/
def lanes16 (f : Nat → Nat × Flags) : V512 × Flags := laneMap 32 16 f

/-- v times x added to t by fused operations, lane by lane (R212). -/
def fusedRow (v : Nat) (x t : V512) : V512 × Flags :=
  lanes16 fun l => fFma fp32 .rne (fp32.value v) (fp32.value (lane 32 x l)) (fp32.value (lane 32 t l))

/-- t + x lane by lane (R212). -/
def addRow (t x : V512) : V512 × Flags :=
  lanes16 fun l => fAdd fp32 .rne (fp32.value (lane 32 t l)) (fp32.value (lane 32 x l))

/-- row * SCL lane by lane (R212). -/
def scaleRow (t : V512) (scl : BitVec 32) : V512 × Flags :=
  lanes16 fun l => fMul fp32 .rne (fp32.value (lane 32 t l)) (fp32.value scl.toNat)

/-- The structure of R206, depth apart, refuses a symbol at this place. -/
def Pass.malformed (p : Pass) (y : Sym) : Bool :=
  let last := p.pos + 1 == p.nsym
  match y with
  | .bad => true
  | .define _ _ => p.opened.isSome || last
  | .term _ _ => last
  | .ref _ => last
  | .endRule => p.opened.isNone || last
  | .endRow => p.opened.isSome || last
  | .endPass => p.opened.isSome || !last || p.rowUsed

/-- Conditions 2 to 7 of R213. -/
def Pass.symFault (p : Pass) (y : Sym) : Option Cause :=
  if p.malformed y then some .illopd
  else match y with
    | .define _ d => if d = 0 then some .illopd else if p.lim < d then some .ruledepth else none
    | .ref s => if (Tbl.get none p.rules s).isNone then some .ruleundef else none
    | .term c _ => if 0x80000 < p.xb + 64 * c + 64 then some .hbound else none
    | .endRule => match p.opened with
      | some (_, d) => if p.dep = d then none else some .illopd
      | none => none
    | _ => none

/-- The running sum takes a value: the open rule's, or the row's. -/
def Pass.sum (p : Pass) (r : V512 × Flags) : Pass :=
  let p := { p with flags := p.flags ||| r.2 }
  if p.opened.isSome then { p with acc := r.1 } else { p with row := r.1, rowUsed := true }

def Pass.target (p : Pass) : V512 := if p.opened.isSome then p.acc else p.row

/-- The effect of a symbol (R212); x is the x row of a terminal, now the engine cycle. A row counts as emitted when its
end of row issues (log 44). -/
def Pass.run (p : Pass) (now : Nat) (y : Sym) (x : V512) : Pass :=
  let q := match y with
    | .define s d => { p with opened := some (s, d), acc := 0, dep := 1, rules := Tbl.put none p.rules s none }
    | .term _ c =>
      let v := decodeNarrow p.tfmt .rne c 127
      let p := { p with flags := p.flags ||| v.2 }
      p.sum (fusedRow v.1 x p.target)
    | .ref s =>
      match Tbl.get none p.rules s with
      | some r =>
        let p := if p.opened.isSome then { p with dep := Nat.max p.dep (r.depth + 1) } else p
        p.sum (addRow p.target r.value)
      | none => p
    | .endRule =>
      match p.opened with
      | some (s, d) => { p with rules := Tbl.put none p.rules s (some ⟨p.acc, d⟩), opened := none }
      | none => p
    | .endRow =>
      let e := scaleRow p.row p.scl
      let t := Nat.max (now + 6) (p.lastPush + 1)
      { p with
        flags := p.flags ||| e.2
        pushes := p.pushes ++ [(QEntry.mk e.1 (BitVec.ofNat 16 p.idx.toNat) false, t)]
        lastPush := t
        idx := p.idx + 1
        rows := p.rows + 1
        row := 0
        rowUsed := false }
    | .endPass => { p with finish := some (now + 7) }
    | .bad => p
  { q with pos := q.pos + 1 }

/-- The code of a terminal masked to TFMT's width (R205). -/
def Pass.codeOf (p : Pass) (y : Sym) : Sym :=
  match y with
  | .term c w => .term c (w % 2 ^ p.tfmt.width)
  | y => y

/-- A core that waits for a pass to end, to leave, to switch or to end its strand, discards the rows the pass pushes
(R219). -/
def Core.dropsRows (k : Core) : Bool := k.bs.dropping

/-- q2 has no room, which a pass must wait for (R215, R219). -/
def Core.q2Full (k : Core) : Bool := decide (64 ≤ k.q2.length) && !k.dropsRows

/-- The scratchpad with the ls stores that the bundle in execution has committed (R153, R223). -/
def Core.spadSeen (k : Core) : Memory :=
  k.bs.deferred.foldl (fun m d => match d with | .store o n v => m.write o n v | _ => m) k.spad

/-- Issues up to n symbols of an engine cycle (R213, R214). -/
def Pass.issue (p : Pass) (k : Core) (taken : List Nat) : Nat → Pass
  | 0 => p
  | n + 1 =>
    if p.finish.isSome || p.fail.isSome then p
    else
      let o := p.symOff p.pos
      let stop (c : Cause) : Pass := { p with fail := some (c, BitVec.ofNat 64 o) }
      if Handle.size p.handle < o + 4 then stop .hbound
      else match p.line (p.lineOf o) with
        | none => p
        | some (_, some c) => stop c
        | some (d, none) =>
          let y := p.codeOf (symOf (getBytes d.toNat (o % 128) 4))
          match p.symFault y with
          | some c => stop c
          | none =>
            match y with
            | .endRow => if k.q2Full then { p with stalled := true } else (p.run k.sg.clk y 0).issue k taken n
            | .term c _ =>
              let a := p.xb + 64 * c
              if taken.contains (a / 64 % 16) then p
              else (p.run k.sg.clk y (BitVec.ofNat 512 (k.spadSeen.read a 64))).issue k (a / 64 % 16 :: taken) n
            | y => (p.run k.sg.clk y 0).issue k taken n

/-- Symbols of a cycle by pressure level; none in every second cycle at level 3 (R214). -/
def issueWidth (level : Nat) (skip : Bool) : Nat :=
  match level with
  | 0 => 4
  | 1 => 2
  | 2 => 1
  | _ => if skip then 0 else 1

/-- The header read and checked (R211). -/
def Pass.readHeader (p : Pass) : Pass :=
  let stop (c : Cause) : Pass := { p with fail := some (c, BitVec.ofNat 64 p.off), hdrRead := true }
  match p.line 0 with
  | none => p
  | some (_, some c) => stop c
  | some (d, none) =>
    let h := getBytes d.toNat (p.off % 128) 16
    let f : Fmt := BitVec.ofNat 32 h
    if bits h 127 56 ≠ 0 ∨ bits h 55 32 = 0 then stop .illopd
    else if !f.consistent then stop .fmtreg
    else { p with hdrRead := true, tfmt := f, nsym := bits h 55 32 }

/-- Issue has begun by an engine cycle (R214). -/
def Pass.issuing (p : Pass) (n : Nat) : Bool := match p.issueFrom with | some f => decide (f ≤ n) | none => false

/-- The row pushes still to come hold back the end of a pass (R216, R220). -/
def Pass.ended (p : Pass) (n : Nat) : Bool :=
  match p.finish with
  | some f => p.pushes.isEmpty && decide (f ≤ n) && decide (p.lastPush < n)
  | none => false

/-- One engine cycle (R214, R215): a line request, then issue; a pass that has ended or failed ends. -/
def State.sedgeCycle (s : State) (c : CoreId) : State :=
  match (s.core c).sg.pass with
  | none => s
  | some p =>
    let s := if p.asked < p.issued + 8 && !p.pend && p.fail.isNone && p.finish.isNone then s.askLine c else s
    let k := s.core c
    match k.sg.pass with
    | none => s
    | some p =>
      let full := k.q2Full && !p.pushes.isEmpty
      let p1 := if p.issuing k.sg.clk && !p.hdrRead then p.readHeader else p
      let w := issueWidth (s.cluster (clusterOf c)).press p.skip
      let taken := (k.slot3.filter fun e => e.1 == k.slotCycle s.now).map (·.2)
      let p2 := if p1.issuing k.sg.clk && p1.hdrRead && !full then ({ p1 with stalled := p1.stalled && decide (w = 0) } : Pass).issue k taken w
        else { p1 with stalled := false }
      let p3 : Pass := { p2 with stalled := full || (p2.stalled && k.q2Full), skip := !p.skip }
      let s := s.onCore c fun k => { k with sg := { k.sg with pass := some p3 } }
      let s := if p.pos < p3.pos then s.chargeUnits c (s.weight 14) else s
      let s := if p3.ended k.sg.clk then s.schedule s.now (.sedgePassEnd c) else s
      let s := if p.fail.isNone && p3.fail.isSome then s.lsAdvance c else s
      if p3.fail.isSome && p3.pushes.isEmpty then s.schedule s.now (.sedgePassFail c) else s

/-- The pass of a core ends: flags, counts (R216, R220). -/
def State.endPass (s : State) (c : CoreId) (p : Pass) (err : Option (Cause × W64)) : State :=
  (s.onCore c fun k =>
    ({ k with sg := { k.sg with
        pass := none
        passes := k.sg.passes + 1
        syms := p.pos
        rows := p.rows
        err := err } }).setFlags p.flags).lsAdvance c

/-! ### The steps -/

/-- sg.lim (R208). -/
def execSgLim (m : Mv) (s : State) : Host.Outcome State Fault Refusal := runMove (.sgLim m) commitSgLim s
/-- sg.scl (R208). -/
def execSgScl (m : Mv) (s : State) : Host.Outcome State Fault Refusal := runMove (.sgScl m) commitSgScl s
/-- sg.pass (R210). -/
def execSgPass (m : Mv) (s : State) : Host.Outcome State Fault Refusal := runMove (.sgPass m) commitSgPass s
/-- sg.stat (R208). -/
def execSgStat (f : SgField) (m : Mv) (s : State) : Host.Outcome State Fault Refusal :=
  runMove (.sgStat f m) (commitSgStat f m.k) s
/-- sg.wait (R208). -/
def execSgWait (m : Mv) (s : State) : Host.Outcome State Fault Refusal := runMove (.sgWait m) commitSgWait s

/-- Requested lines due now arrive (R214); once the header's line and the first symbol's are there, issue
begins in the next cycle. -/
def execSedgeLineArrive (c : CoreId) (s : State) : Host.Outcome State Fault Refusal :=
  match (s.core c).sg.pass with
  | none => .next s
  | some p =>
    let due := (p.flying.filter fun e => decide (e.2.1 ≤ s.now)).map (·.1)
    let p : Pass := { p with
      flying := p.flying.filter fun e => !decide (e.2.1 ≤ s.now)
      lines := p.lines ++ (p.saved.filter fun e => due.contains e.1).map fun e => (e.1, e.2.1, e.2.2.1)
      saved := p.saved.filter fun e => !due.contains e.1 }
    if p.pend then .next (s.beginPass c)
    else
    let p := p.begin (s.core c).sg.clk
    .next ((s.onCore c fun k => { k with sg := { k.sg with pass := some p } }).lsAdvance c)

/-- One engine cycle (R214); the gather engine comes first to the banks (R152). -/
def execSedgeIssueCycle (c : CoreId) (s : State) : Host.Outcome State Fault Refusal :=
  .next (if s.events.any fun e => decide (e.1 ≤ s.now) && e.2 == .gatherOpComplete c
    then s.schedule s.now (.sedgeIssueCycle c) else s.sedgeCycle c)

/-- The oldest row due enters q2 while it has room; a core that waits to leave drops it (R215, R219). -/
def execSedgeRowPush (c : CoreId) (s : State) : Host.Outcome State Fault Refusal :=
  let k := s.core c
  match k.sg.pass with
  | none => .next s
  | some p =>
    match p.pushes with
    | [] => .next s
    | (e, t) :: r =>
      if k.sg.clk < t ∨ k.q2Full then .next s
      else
        let p : Pass := { p with pushes := r, lastPush := Nat.max p.lastPush k.sg.clk }
        .next (s.onCore c fun k => { k with
          q2 := if k.dropsRows then k.q2 else k.q2 ++ [e]
          sg := { k.sg with pass := some p } })

/-- The pass ends (R216). -/
def execSedgePassEnd (c : CoreId) (s : State) : Host.Outcome State Fault Refusal :=
  match (s.core c).sg.pass with
  | some p => if p.ended (s.core c).sg.clk then .next (s.endPass c p none) else .next s
  | none => .next s

/-- The pass fails (R220). -/
def execSedgePassFail (c : CoreId) (s : State) : Host.Outcome State Fault Refusal :=
  match (s.core c).sg.pass with
  | some p =>
    if p.fail.isSome && p.pushes.isEmpty then .next (s.endPass c p p.fail) else .next s
  | none => .next s

end Sys2Proof.Machine
end

