-- ==== Sys2Proof/Machine/CopyGather.lean ====
section
/-! DEFINITION. The copy engine, the gather engine and user-level completion interrupts (R100, R170 to
R182, R410). -/

namespace Sys2Proof.Machine

/-! ### Status words in b8 (R177) -/

def Core.cpStatus (k : Core) : Nat :=
  k.cp.done.toNat * 2 ^ 32 + (match k.cp.err with | some (c, _) => c.code * 2 ^ 16 + 16 | none => 0)
    + 2 * boolCode k.cp.pending.isSome + boolCode k.cp.active.isSome

def Core.gaStatus (k : Core) : Nat :=
  k.ga.done.toNat * 2 ^ 32 + (match k.ga.err with | some (c, _) => c.code * 2 ^ 16 + 16 | none => 0)
    + 2 * (k.ga.ops.length - 1) + boolCode (!k.ga.ops.isEmpty)

def State.cpLatch (s : State) : State := s.onMe fun k => k.setLatch 8 k.cpStatus
def State.gaLatch (s : State) : State := s.onMe fun k => k.setLatch 8 k.gaStatus

/-! ### Tensor shape records (R172) -/

/-- A record's fields. -/
structure Shape where
  base : Nat
  ext : List Nat
  stride : List Int
  esz : Nat
  spare : Nat
deriving DecidableEq, Repr

def shapeOf (r : Nat) : Shape where
  base := bits r 63 0
  ext := (upto 4).map fun d => bits r (64 + 16 * d + 15) (64 + 16 * d)
  stride := (upto 4).map fun d => sx (bits r (128 + 32 * d + 31) (128 + 32 * d)) 32
  esz := bits r 258 256
  spare := bits r 511 259

/-- Bytes an element takes; a pair of 4-bit ones counts as one (R173). -/
def Shape.bytes (h : Shape) : Nat := if h.esz = 0 then 1 else 2 ^ (h.esz - 1)

/-- Extents in moved elements (R173). -/
def Shape.extents (h : Shape) : List Nat :=
  match h.ext with
  | e :: r => (if h.esz = 0 then e / 2 else e) :: r
  | [] => []

/-- Number of elements moved. -/
def Shape.count (h : Shape) : Nat := h.extents.foldl (· * ·) 1

/-- Memory offset of element L from BASE (R173). -/
def stepOff : List Nat → List Int → Nat → Int
  | e :: es, t :: ts, l => (l % e : Nat) * t + stepOff es ts (l / e)
  | _, _, _ => 0

/-- Least and greatest offset over the corners of the index space (R174). -/
def corners : List Nat → List Int → Int × Int
  | e :: es, t :: ts =>
    let r := corners es ts
    let c : Int := ((e - 1 : Nat) : Int) * t
    (r.1 + (if c < 0 then c else 0), r.2 + (if c < 0 then 0 else c))
  | _, _ => (0, 0)

/-- ILLOPD of R174. -/
def Shape.bad (h : Shape) : Bool :=
  h.spare != 0 || decide (5 ≤ h.esz)
    || (h.esz == 0 && ((h.ext.headD 0) % 2 != 0 || h.stride.headD 0 != 1))

/-- HBOUND of R174. -/
def Shape.outside (h : Shape) (size sp : Nat) : Bool :=
  if h.count = 0 then false
  else
    let c := corners h.extents h.stride
    decide ((h.base : Int) + c.1 < 0) || decide ((size : Int) < h.base + c.2 + h.bytes)
      || decide (0x80000 < sp + h.count * h.bytes)

/-- An element of a copy: memory offset, scratchpad address (R173). -/
def Shape.elems (h : Shape) (sp : Nat) (z : BitVec 32) : List (Nat × Nat) :=
  (upto h.count).map fun l =>
    ((h.base + stepOff h.extents h.stride l).toNat, swz (sp + l * h.bytes) z)

/-! ### Data (R173, R176; log 14) -/

/-- n bytes written that may cross a line. -/
def State.writeSpan (s : State) (a n v : Nat) : State :=
  let m := 128 - a % 128
  if n ≤ m then s.writeThrough (s.who s.cur) a n v
  else (s.writeThrough (s.who s.cur) a m v).writeThrough (s.who s.cur) (a + m) (n - m) (v / 2 ^ (8 * m))

/-- The bytes of an element by line: memory address, scratchpad address, number. -/
def elemParts (a sp n : Nat) : List (Nat × Nat × Nat) :=
  let m := 128 - a % 128
  if n ≤ m then [(a, sp, n)] else [(a, sp, m), (a + m, sp + m, n - m)]

/-- Bytes of a line joined to a copy's lines, latest first (R410). -/
def joinLine (l : List CopyLine) (e : CopyLine) : List CopyLine :=
  let f (x : CopyLine) : CopyLine := { x with writes := e.writes ++ x.writes, err := x.err.or e.err }
  match l with
  | [] => [e]
  | x :: r =>
    if x.line = e.line then f x :: r
    else if r.any (·.line == e.line) then x :: r.map fun y => if y.line = e.line then f y else y
    else e :: l

/-- A copy's lines in the order of their requests, their bytes in the order of L. -/
def inOrder (l : List CopyLine) : List CopyLine := l.reverse.map fun e => { e with writes := e.writes.reverse }

/-- Elements read in order of L, line by line (R410, R174). -/
def readElems (pb n : Nat) (el : List (Nat × Nat)) (s : State) : State × List CopyLine :=
  let r := (el.flatMap fun e => elemParts (pb + e.1) e.2 n).foldl
    (fun (p : State × List CopyLine) q =>
      let (s, v, b) := p.1.readThrough (p.1.who p.1.cur) q.1 q.2.2
      (s, joinLine p.2 ⟨lineOf q.1, [(q.2.1, q.2.2, v)], b, none, 0⟩)) (s, [])
  (r.1, inOrder r.2)

/-- Lines that a copy out touches, in order of L; one for which bytes with an uncorrectable error would be read fails
(R174, R384). -/
def outLines (k : Core) (pb n : Nat) (el : List (Nat × Nat)) : List CopyLine :=
  inOrder ((el.flatMap fun e => elemParts (pb + e.1) e.2 n).foldl
    (fun l q => joinLine l ⟨lineOf q.1, [], if k.spadErr q.2.1 q.2.2 then some .eccunc else none, none, 0⟩) [])

/-- Writes of a copy's lines to the scratchpad. -/
def Core.applyLines (k : Core) (l : List CopyLine) : Core :=
  l.foldl (fun k e => e.writes.foldl (fun k w => k.spadWrite w.1 w.2.1 w.2.2) k) k

/-- The scratchpad as the copies started before leave it. -/
def Core.spadAfterCopies (k : Core) : Core :=
  let f (k : Core) (c : Option Copy) : Core := match c with | some c => k.applyLines c.lines | none => k
  f (f k k.cp.active) k.cp.pending

/-- A copy under way is to fail, which discards a pending one (R174). -/
def Copy.doomed (c : Copy) : Bool := c.fail.isSome || c.lines.any fun l => l.err.isSome

/-! ### The copy engine (R170 to R177) -/

/-- A copy-domain cycle of a core (R410). -/
def Core.copyCycle (k : Core) : Nat := 5 * k.pctx.divCpy

/-- A copy fails: nothing of it is left to move, and no copy is pending (R174). -/
def State.failCopy (s : State) (c : CoreId) (a : W64) (e : Cause) : State :=
  (s.onCore c fun k => { k with cp := { k.cp with
    active := none, pending := none, err := some (e, a) } }).lsAdvance c

/-- A copy becomes active: its record is read where the cache does not hold it, it is checked (R174), and its requests
follow from a time on (R173, R410). -/
def State.startCopy (s : State) (c : CoreId) (y : Copy) (t : Nat) : State :=
  let s := s.onCore c fun k => { k with cp := { k.cp with active := some { y with next := t } } }
  if y.record.isSome then s.schedule t (.copyLineReply c)
  else match y.fail with
    | some e => s.failCopy c y.recAddr e
    | none => if y.lines = [] then s.schedule (s.now + (s.core c).copyCycle) (.copyComplete c)
      else s.schedule t (.copyLineReply c)

/-- The request for a copy's record, once a request slot is free (R164, R409). -/
def State.askRecord (s : State) (c : CoreId) (y : Copy) (d : Nat) : State :=
  let t := s.now + (s.core c).copyCycle
  let y : Copy := if s.now < y.next then y
    else if s.noSlots c 1 then { y with next := t }
    else { y with record := none, recSent := s.now, recUntil := s.now + d, next := s.now + d }
  (s.onCore c fun k => { k with cp := { k.cp with active := some y } }).schedule y.next (.copyLineReply c)

/-- The next request of a copy in its cycle, when a request slot is free (R164, R410). -/
def State.askCopy (s : State) (c : CoreId) (y : Copy) : State × Copy :=
  if s.now < y.next ∨ y.lines.all (fun l => l.due.isSome) then (s, y)
  else
    let t := s.now + (s.core c).copyCycle
    let s := s.schedule t (.copyLineReply c)
    if s.noSlots c 1 then (s, { y with next := t })
    else
      let (d, s) := s.takeDelay Config.guideSlice
      let u := s.now + Nat.max d (4 * (s.core c).cl)
      let go := y.lines.takeWhile fun l => l.due.isSome
      (s.schedule u (.copyLineReply c), { y with
        next := t
        lines := go ++ match y.lines.drop go.length with
          | l :: r => { l with due := some u, sent := s.now } :: r
          | [] => [] })

/-- A turn of the copy engine: replies that have come enter the scratchpad, a faulty one stops the copy (R174), and the
next request is made (R410). -/
def State.copyTurn (s : State) (c : CoreId) (y : Copy) : State :=
  match y.record, (if s.now < y.recUntil then none else y.fail) with
  | some d, _ => s.askRecord c y d
  | none, some e => s.failCopy c y.recAddr e
  | none, none =>
  let come (l : CopyLine) : Bool := match l.due with | some t => decide (t ≤ s.now) | none => false
  let ripe := y.lines.filter come
  let s := s.onCore c fun k => k.applyLines (ripe.takeWhile fun l => l.err.isNone)
  match ripe.findSome? (·.err) with
  | some e => s.failCopy c y.recAddr e
  | none =>
    let (s, y) := s.askCopy c { y with lines := y.lines.filter fun l => !come l }
    let s := s.onCore c fun k => { k with cp := { k.cp with active := some y } }
    if y.lines = [] then s.schedule (Nat.max s.now y.next) (.copyComplete c) else s

/-- The record of a go: from the cache, or read through the L1, and then the time of its reply, that of a hit at the least
(R173, R175, R409). -/
def State.copyRecord (s : State) (a : W64) : State × Except Cause Nat × Option Nat :=
  let key := fun (e : CtxId × W64 × V512) => e.1 == s.me.ctx && e.2.1 == a
  match s.me.cp.cache.find? key with
  | some e =>
    (s.onMe fun k => { k with cp := { k.cp with cache := e :: k.cp.cache.filter fun x => !key x } }, .ok e.2.2.toNat, none)
  | none =>
    match s.translateHere a.toNat with
    | none => (s, .error .lease, none)
    | some m =>
      let cl := s.me.cl
      let (d, s) := if s.me.l1Has (m.phys a.toNat) 64 then (0, s) else s.takeDelay Config.guideSlice
      let t := some (Nat.max d (4 * cl))
      let (s, v, b) := s.readThrough (s.who s.cur) (m.phys a.toNat) 64
      match b with
      | some c => (s, .error c, t)
      | none =>
        (s.onMe fun k => { k with cp := { k.cp with
          cache := ((k.ctx, a, BitVec.ofNat 512 v) :: k.cp.cache).take 8 } }, .ok v, t)

/-- What the checks at start give for a record (R174). -/
def copyFault (s : State) (out : Bool) (h : Handle) (a sp : Nat) (r : Shape) : Option Cause :=
  if r.bad then some .illopd
  else if (s.translateHere a).isNone then some .lease
  else if r.outside h.size sp then some .hbound
  else if (if out then h.pw else h.pr) then none else some .priv

/-- The copy a go starts, its data taken as of now (R173, R176, log 14). -/
def State.makeCopy (s : State) (out irq : Bool) (h : Handle) (a : W64) (sp : Nat) (z : BitVec 32) (live : Bool) :
    State × Copy :=
  let (s, r, t) := s.copyRecord a
  match r with
  | .error c => (s, ⟨out, irq, h, a, some c, [], 0, t, 0, 0⟩)
  | .ok v =>
    let g := shapeOf v
    match copyFault s out h a.toNat sp g with
    | some c => (s, ⟨out, irq, h, a, some c, [], 0, t, 0, 0⟩)
    | none =>
      let el := g.elems sp z
      if out then
        let k := s.me.spadAfterCopies
        let good := if live then el.takeWhile fun e => !k.spadErr e.2 g.bytes else []
        let s := good.foldl (fun s e => s.writeSpan (h.pbase + e.1) g.bytes (k.spadRead e.2 g.bytes)) s
        (s.endRelFence, ⟨out, irq, h, a, none, outLines k h.pbase g.bytes el, 0, t, 0, 0⟩)
      else
        let (s, l) := readElems h.pbase g.bytes el s
        (s.engineRead, ⟨out, irq, h, a, none, l, 0, t, 0, 0⟩)

def commitCpGo (out : Bool) (v : V512) (s : State) : Commit :=
  if s.me.cp.active.isSome && s.me.cp.pending.isSome then .freeze .copy
  else engineFirst s.me.cp.err .copy <|
    needPort s .cpH fun hv => needPort s .cpRec fun rv => needPort s .cpSp fun pv => needPort s .cpZ fun zv =>
      let h : Handle := BitVec.ofNat 128 hv.toNat
      let z : BitVec 32 := BitVec.ofNat 32 zv.toNat
      let a := sval rv
      let sp := sval pv
      let irq := bit v.toNat 0
      if h.isSpad ∨ 2 ^ 56 ≤ a ∨ swzBad z ∨ (irq ∧ s.me.ui.target.isNone) then .raise .illopd none
      else if !h.v || h.ctx != s.me.ctx.toNat then .raise .hstale none
      else if a % 64 ≠ 0 ∨ sp % 64 ≠ 0 then .raise .align none
      else if 0x80000 ≤ sp then .raise .hbound none
      else match s.settle out with
      | none => .freeze s.unsettled
      | some s =>
        let live := match s.me.cp.active with | some y => !y.doomed | none => true
        let (s, y) := s.makeCopy out irq h (BitVec.ofNat 64 a) sp z live
        let s := if s.me.cp.active.isNone then s.startCopy s.cur y s.now
          else s.onMe fun k => { k with cp := { k.cp with pending := some y } }
        .ok s.cpLatch

def commitCpFence (_v : V512) (s : State) : Commit :=
  engineFirst s.me.cp.err .copy <| .ok ((s.onMe fun k => { k with cp := { k.cp with cache := [] } }).cpLatch)

def commitCpStat (wait : Bool) (keep : Bool) (_v : V512) (s : State) : Commit :=
  if wait && (s.me.cp.active.isSome || s.me.cp.pending.isSome) then .freeze .copy
  else engineFirst s.me.cp.err .copy <| if keep then .ok s.cpLatch else .raise .illopd none

def commitCpUiv (v : V512) (s : State) : Commit :=
  engineFirst s.me.cp.err .copy <|
    if badAbs (sval v) then .raise .illopd none
    else .ok (s.onMe fun k => { k with ui := { k.ui with target := some (Target.ofAbs (sval v)) } })

/-- Interrupts that become pending in step 1 of a suspension or END are discarded (R180). -/
def Core.leavingNow (k : Core) : Bool := match k.phase with | .leaving _ => true | _ => false

/-- The active copy completes, and the pending one starts (R170, R180, R410). -/
def State.finishCopy (s : State) (c : CoreId) (y : Copy) : State :=
  let s := s.onCore c fun k => { k with
    cp := { k.cp with active := none, done := k.cp.done + 1 }
    ui := if y.irq && !k.leavingNow then { k.ui with pending := k.ui.pending + 1 } else k.ui }
  match (s.core c).cp.pending with
  | none => s.lsAdvance c
  | some p => (s.onCore c fun k => { k with cp := { k.cp with pending := none } }).startCopy c p
      (s.now + (s.core c).copyCycle)

/-! ### The gather engine (R179) -/

/-- The scratchpad as the gather operations started before leave it. -/
def Core.spadAfterGathers (k : Core) : Core :=
  k.ga.ops.foldl (fun k o => o.rows.foldl (fun k r => r.writes.foldl (fun k w => k.spadWrite w.1 w.2.1 w.2.2) k) k) k

/-- Lanes j, j + 1, … of a gather row: words read for the scratchpad, up to a failing lane (R179). -/
def gatherLanes (k : Core) (h : Handle) (ix sp : Nat) : Nat → Nat → State → List (Nat × Nat × Nat) →
    State × List (Nat × Nat × Nat) × Option (Cause × W64)
  | 0, _, s, l => (s, l, none)
  | n + 1, j, s, l =>
    let o := k.spadRead (ix + 4 * j) 4
    match (if k.spadErr (ix + 4 * j) 4 then some .eccunc else checkHandle h s.me.ctx o 4 .r) with
    | some c => (s, l, some (c, laneAddr (j % 16) o))
    | none =>
      let (s, v, b) := s.readThrough (s.who s.cur) (h.pbase + o) 4
      match b with
      | some c => (s, l, some (c, laneAddr (j % 16) o))
      | none => gatherLanes k h ix sp n (j + 1) s (l ++ [(sp + 4 * j, 4, v)])

/-- Lanes of a scatter row written to memory, up to a failing lane (R179). -/
def scatterLanes (k : Core) (h : Handle) (ix sp : Nat) : Nat → Nat → State → State × Option (Cause × W64)
  | 0, _, s => (s, none)
  | n + 1, j, s =>
    let o := k.spadRead (ix + 4 * j) 4
    let bad := k.spadErr (ix + 4 * j) 4
    let data := if k.spadErr (sp + 4 * j) 4 then some Cause.eccunc else none
    match (if bad then some .eccunc else (checkHandle h s.me.ctx o 4 .w).or data) with
    | some c => (s, some (c, laneAddr (j % 16) o))
    | none =>
      scatterLanes k h ix sp n (j + 1)
        (s.writeThrough (s.who s.cur) (h.pbase + o) 4 (k.spadRead (sp + 4 * j) 4))

/-- The lanes of a row, up to n of them, with whether their lines are in the L1 (R409). -/
def rowLanes (s : State) (k : Core) (h : Handle) (ix n : Nat) : List GatherLane :=
  (upto n).map fun j => s.laneOf h (k.spadRead (ix + 4 * j) 4)

/-- Rows v, v + 1, … of a gather or scatter, up to a failing lane (R179). -/
def gatherRows (k : Core) (h : Handle) (ix sp : Nat) (sct : Bool) :
    Nat → Nat → State → List GatherRow → State × List GatherRow × Option (Cause × W64)
  | 0, _, s, l => (s, l.reverse, none)
  | n + 1, v, s, l =>
    let all := rowLanes s k h (ix + 64 * v) 16
    let (s, w, e) := if sct then
        let (s, e) := scatterLanes k h ix sp 16 (16 * v) s
        (s, [], e)
      else gatherLanes k h ix sp 16 (16 * v) s []
    let lanes := match e with
      | some (_, a) => all.take (bits a.toNat 63 60)
      | none => all
    let l := ⟨some (ix + 64 * v), some (sp + 64 * v), !sct, w, lanes⟩ :: l
    match e with
    | some e => (s, l.reverse, some e)
    | none => gatherRows k h ix sp sct n (v + 1) s l

/-- ga.gth and ga.sct: checks at commit, then the operation (R179). -/
def gatherTrigger (sct : Bool) (v : V512) (s : State) : Commit :=
  if s.me.gatherFull then .freeze .gather
  else engineFirst s.me.ga.err .gather <|
    needPort s .gaH fun hv => needPort s .gaIx fun iv => needPort s .gaSp fun pv =>
      let h : Handle := BitVec.ofNat 128 hv.toNat
      let n := sval v
      let ix := sval iv
      let sp := sval pv
      if n = 0 ∨ 4096 < n ∨ h.isSpad then .raise .illopd none
      else if !h.v || h.ctx != s.me.ctx.toNat then .raise .hstale none
      else if ix % 64 ≠ 0 ∨ sp % 64 ≠ 0 then .raise .align none
      else if 0x80000 < ix + 64 * n ∨ 0x80000 < sp + 64 * n then .raise .hbound none
      else match s.settle sct with
      | none => .freeze s.unsettled
      | some s =>
        let (s, l, e) := gatherRows s.me.spadAfterGathers h ix sp sct n 0 s []
        .ok ((if sct then s.endRelFence else s.engineRead).queueGather ⟨none, h, l, e⟩).gaLatch

/-- A lane's reply has come. -/
def GatherLane.here (l : GatherLane) (now : Nat) : Bool := l.due.any fun t => decide (t ≤ now)

/-- Every lane of a row has been requested. -/
def GatherRow.asked (r : GatherRow) : Bool := r.ix.isNone && r.lanes.all fun l => l.due.isSome

/-- Lanes requested in turn while a request slot is free: each replies as a scalar load would, a hit after 4 control
cycles, another after an open time (R148, R164, R409). -/
def State.askLanes (s : State) (c : CoreId) : List GatherLane → Nat → State × List GatherLane
  | [], _ => (s, [])
  | l :: r, n =>
    if l.due.isSome then
      let (s, r) := s.askLanes c r n
      (s, l :: r)
    else if s.noSlots c (n + 1) then (s, l :: r)
    else
      let (d, s) := if l.hit then (0, s) else s.takeDelay Config.guideSlice
      let (s, r) := s.askLanes c r (n + 1)
      (s, { l with sent := s.now, due := some (s.now + Nat.max d (4 * (s.core c).cl)) } :: r)

/-- A row whose replies have come is written, in slot 3 of its bank (R152, R179); rows still to be done, and the
state. -/
def State.landRow (s : State) (c : CoreId) (r : GatherRow) : State × List GatherRow :=
  if r.ix.isSome || r.lanes.any (fun l => !l.here s.now) then (s, [r])
  else match r.sp, r.load with
    | some a, true =>
      if (s.core c).slot3Used s.now a then (s, [r])
      else (s.onCore c fun k => r.writes.foldl (fun k w => k.spadWrite w.1 w.2.1 w.2.2) (k.takeSlot3 s.now a), [])
    | _, _ => (s, [])

/-- A row not wholly requested: its index row is read, and the data row of a scatter, in slot 3 of their banks, then its
lanes are requested, as many in a control cycle as have a slot (R152, R164, R179; log 42). -/
def State.askRow (s : State) (c : CoreId) (r : GatherRow) : State × GatherRow :=
  let (s, r) : State × GatherRow := match r.ix with
    | some a =>
      if (s.core c).slot3Used s.now a then (s, r)
      else (s.onCore c fun k => k.takeSlot3 s.now a, { r with ix := none })
    | none => (s, r)
  if r.ix.isSome then (s, r)
  else
    let (s, r, ok) : State × GatherRow × Bool := match r.sp, r.load with
      | some a, false =>
        if (s.core c).slot3Used s.now a then (s, r, false)
        else (s.onCore c fun k => k.takeSlot3 s.now a, { r with sp := none }, true)
      | _, _ => (s, r, true)
    if !ok then (s, r)
    else
      let (s, l) := s.askLanes c r.lanes 0
      (s, { r with lanes := l })

/-- The active operation is over (R179): its count, or its failure where none awaits its report, and what it was handed
over for. The operations behind it are performed all the same (log 43). -/
def State.endGather (s : State) (c : CoreId) (o : GatherOp) (r : List GatherOp) : State :=
  let s := s.onCore c fun k => { k with ga := { k.ga with
    ops := r
    done := if o.err.isSome then k.ga.done else k.ga.done + 1
    err := k.ga.err.or o.err } }
  let s := match o.fid with | some f => s.gatherDone c f | none => s
  let s := if r = [] then s else s.schedule (s.now + (s.core c).cl) (.gatherOpComplete c)
  s.lsAdvance c

/-- A turn of the gather engine: one control cycle of its active operation (R179). -/
def State.gatherTurn (s : State) (c : CoreId) : State :=
  match (s.core c).ga.ops with
  | [] => s
  | o :: r =>
    let (s, rows) := o.rows.foldl (fun (p : State × List GatherRow) g =>
      let (s, l) := p.1.landRow c g
      (s, p.2 ++ l)) (s, [])
    let go := rows.takeWhile (·.asked)
    let (s, rows) := match rows.drop go.length with
      | g :: l => let (s, g) := s.askRow c g; (s, go ++ g :: l)
      | [] => (s, go)
    if rows = [] then s.endGather c o r
    else
      let s := s.onCore c fun k => { k with ga := { k.ga with ops := { o with rows := rows } :: r } }
      let cl := (s.core c).cl
      let ready (g : GatherRow) : Nat := g.lanes.foldl (fun m l => Nat.max m (l.due.getD 0)) 0
      let t := if rows.all fun g => g.asked && decide (s.now < ready g)
        then rows.foldl (fun m g => Nat.min m (ready g)) (ready (rows.headD ⟨none, none, false, [], []⟩))
        else s.now + cl
      s.schedule t (.gatherOpComplete c)

def commitGaGth (v : V512) (s : State) : Commit := gatherTrigger false v s
def commitGaSct (v : V512) (s : State) : Commit := gatherTrigger true v s

def commitGaStat (wait : Bool) (keep : Bool) (_v : V512) (s : State) : Commit :=
  if wait && !s.me.ga.ops.isEmpty then .freeze .gather
  else engineFirst s.me.ga.err .gather <| if keep then .ok s.gaLatch else .raise .illopd none

def commitGaMode (v : V512) (s : State) : Commit :=
  engineFirst s.me.ga.err .gather <|
    .ok ((s.onMe fun k => k.onPctx fun p => { p with gmode := bit v.toNat 0 }).gaLatch)

/-- UIRET outside a handler raises ILLOPD; inside one it takes effect at its bundle's end (R182). -/
def commitUiret (_v : V512) (s : State) : Commit :=
  if s.me.ui.active then .ok (s.onMe fun k => { k with bs := { k.bs with uiret := true } })
  else .raise .illopd none

/-- UIRET at bundle end: the banked set returns, and control goes to the return point (R182). -/
def Core.leaveHandler (k : Core) : Core :=
  ({ k with
    lat := k.ui.banked
    ports := k.ui.bankedPorts
    ui := { k.ui with active := false } }).goTo k.ui.ret

/-! ### The steps -/

/-- cp.go (R170). -/
def execCpGo (out : Bool) (m : Mv) (s : State) : Host.Outcome State Fault Refusal :=
  runMove (.cpGo out m) (commitCpGo out) s
/-- CPFENCE (R175). -/
def execCpFence (m : Mv) (s : State) : Host.Outcome State Fault Refusal := runMove (.cpFence m) commitCpFence s
/-- cp.stat (R177). -/
def execCpStat (wait : Bool) (m : Mv) (s : State) : Host.Outcome State Fault Refusal :=
  runMove (.cpStat wait m) (commitCpStat wait m.k) s
/-- cp.uiv (R180). -/
def execCpUiv (m : Mv) (s : State) : Host.Outcome State Fault Refusal := runMove (.cpUiv m) commitCpUiv s
/-- ga.gth (R179). -/
def execGaGth (m : Mv) (s : State) : Host.Outcome State Fault Refusal := runMove (.gaGth m) commitGaGth s
/-- ga.sct (R179). -/
def execGaSct (m : Mv) (s : State) : Host.Outcome State Fault Refusal := runMove (.gaSct m) commitGaSct s
/-- ga.stat (R179). -/
def execGaStat (wait : Bool) (m : Mv) (s : State) : Host.Outcome State Fault Refusal :=
  runMove (.gaStat wait m) (commitGaStat wait m.k) s
/-- ga.mode (R179). -/
def execGaMode (m : Mv) (s : State) : Host.Outcome State Fault Refusal := runMove (.gaMode m) commitGaMode s

/-- A turn of the copy engine: replies for lines of the copy, and its next request (R174, R410). -/
def execCopyLineReply (c : CoreId) (s : State) : Host.Outcome State Fault Refusal :=
  match (s.core c).cp.active with
  | some y => if y.lines = [] ∧ y.record = none ∧ y.fail = none ∧ y.recUntil = 0 then .next s else .next (s.copyTurn c y)
  | none => .next s

/-- A copy whose lines are all moved completes, one copy-domain cycle after its last request at the soonest (R410). -/
def execCopyComplete (c : CoreId) (s : State) : Host.Outcome State Fault Refusal :=
  match (s.core c).cp.active with
  | some y => if y.lines = [] ∧ y.next ≤ s.now then .next (s.finishCopy c y) else .next s
  | none => .next s

/-- A control cycle of the gather engine, in which its active operation may complete or stop at a failing lane
(R179). -/
def execGatherOpComplete (c : CoreId) (s : State) : Host.Outcome State Fault Refusal := .next (s.gatherTurn c)

/-- A user-level completion interrupt is taken at a bundle boundary (R180): 2 control cycles, the latches
and unit ports banked, control at the handler target. -/
def execUiTake (c : CoreId) (s : State) : Host.Outcome State Fault Refusal :=
  let k := s.core c
  match k.ui.target with
  | none => .next s
  | some t =>
    if k.ui.pending = 0 ∨ k.ui.active ∨ k.masked then .next s
    else
      .next (((s.engineCycles c false 2).onCore c fun k => ({ k with
        lat := Latches.reset
        ports := Ports.reset
        ui := { k.ui with
          pending := k.ui.pending - 1
          active := true
          ret := k.pc
          banked := k.lat
          bankedPorts := k.ports } }).goTo t))

end Sys2Proof.Machine
end

