-- ==== Sys2Proof/Machine/Window.lean ====
section
/-! DEFINITION. Revocation of pages, results of the strand unit, the page pool and key-value windows
(R159, R344, R352, R362 to R366). -/

namespace Sys2Proof.Machine

/-! ### Revocation (R159) -/

/-- A handle to the page of a context that holds an address. -/
def handleTo (x : CtxId) (va : Nat) (h : Handle) : Bool :=
  h.v && !h.isSpad && h.ctx == x.toNat && decide (h.vbase ≤ va) && decide (va < h.vbase + h.size)

def revokeHandle (x : CtxId) (va : Nat) (h : Handle) : Handle := if handleTo x va h then h.invalid else h

/-- Ports of class H (R234). -/
def handlePorts : List Port := [.lsH, .vxH, .mxH, .sgH, .cpH, .gaH, .syH]

def revokePorts (x : CtxId) (va : Nat) (p : Ports) : Ports :=
  handlePorts.foldl (fun (p : Ports) q =>
    if h : q.index < 43 then
      match p[q.index] with
      | some v => p.set q.index (some (BitVec.ofNat 512 (revokeHandle x va (BitVec.ofNat 128 v.toNat)).toNat)) h
      | none => p
    else p) p

/-- Step 2 of R159 on one core: h registers, ports and results that hold the page's handle, and the accesses
of its engines not issued yet (R191, R221). -/
def Core.revokePage (k : Core) (x : CtxId) (va : Nat) : Core :=
  { k with
    rf := { k.rf with h := k.rf.h.map (revokeHandle x va) }
    ports := revokePorts x va k.ports
    ui := { k.ui with bankedPorts := revokePorts x va k.ui.bankedPorts }
    fl := k.fl.map fun f => if f.cls = .h
      then { f with value := BitVec.ofNat 512 (revokeHandle x va (BitVec.ofNat 128 f.value.toNat)).toNat } else f
    mx := { k.mx with xfer := k.mx.xfer.map fun o => { o with handle := revokeHandle x va o.handle } }
    sg := { k.sg with pass := k.sg.pass.map fun p => { p with handle := revokeHandle x va p.handle } } }

/-- The request goes through a handle to the page of a context that holds an address. -/
def Req.onPage (r : Req) (x : CtxId) (va : Nat) : Bool :=
  r.ctx == x && (match r.kind with | .tk _ | .spad _ => false | _ => true)
    && r.va.toNat / 2 ^ pageBits r.psz == va / 2 ^ pageBits r.psz

/-- An engine of a core has accesses outstanding through a handle to the page: copies and gathers, rows issued of a
tile transfer, and grammar lines requested (R159, R191, R221). -/
def Core.pageBusy (k : Core) (x : CtxId) (va : Nat) : Bool :=
  (k.cp.active.any fun y => handleTo x va y.page) || (k.cp.pending.any fun y => handleTo x va y.page)
    || (k.ga.ops.any fun o => handleTo x va o.page)
    || (k.mx.xfer.any fun o => !o.out.isEmpty && handleTo x va o.handle)
    || (k.sg.pass.any fun p => !p.flying.isEmpty && handleTo x va p.handle)

/-- Accesses issued through handles to the page are still outstanding: requests numbered below a bound, and those of
the engines (R159 step 1). -/
def State.pageBusy (s : State) (x : CtxId) (va upTo : Nat) : Bool :=
  (s.reqs.any fun r => decide (r.id < upTo) && r.onPage x va) || s.cores.toList.any fun k => k.pageBusy x va

/-- Steps 2 and 3 of R159. -/
def State.revokePage (s : State) (x : CtxId) (va : Nat) : State :=
  { s with
    cores := s.cores.map fun k => k.revokePage x va
    die := { s.die with revCount := s.die.revCount + 1 } }

/-! ### Results of the strand unit (R89, R109, R335) -/

/-- A result of tk set in flight: due at a time, or at its table's reply; after the unit's earlier ones. -/
def State.tkFlight (s : State) (cls : ResClass) (d : Option RegName) (v : Nat) (due : Option Nat) (acq : Bool) :
    Nat × State :=
  let (n, s) := s.takeId
  let s := s.onMe fun k => { k with
    fl := k.fl ++ [⟨n, .tk, cls, BitVec.ofNat 512 v, d, k.vrb, k.prb, 0, due, 0, none, 0, false, k.ui.active, acq⟩] }
  (n, match due with | some t => s.schedule t (.tkResultDelivery s.cur) | none => s)

/-- A trigger of tk whose result comes n control cycles after commit. -/
def tkDeliver (s : State) (cls : ResClass) (keep : Bool) (v n : Nat) (f : State → State) : Commit :=
  match cls with
  | .latch => .ok (f (s.tkFlight cls none v (some (s.me.time + n * s.me.cl)) false).2)
  | _ => withDest s cls keep .tkTo fun d =>
    .ok (f (s.tkFlight cls d v (some (s.me.time + n * s.me.cl)) false).2)

/-- The strand has accesses or table operations that a release waits for (R317, R321). -/
def State.releaseBusy (s : State) : Bool := !(s.reqsOf s.cur).isEmpty || !s.me.enginesQuiet

/-- An eager release of the executing strand: write-backs, whose races fall on its next acquire or release,
and what it passes on (R321, R327). -/
def State.eagerRelease (s : State) : Vc × State :=
  let (s, g) := s.writeBackAll s.cur false
  (s.addLate s.cur g).releaseVc s.cur

/-- A release at a table or unit asked for at commit: what it passes on is fixed now, and it is performed once
what precedes it has been (R317, R321). -/
def State.tkRequest (s : State) (op : TkOp) (fid : Nat) : State := s.makeReq (.tk op) (2 ^ 53) 0 0 fid 0 0

/-! ### Streams by number, key-value pages by number (R344, R363) -/

def State.stream (s : State) (n : Nat) : Option Stream := Tbl.get none s.streams n

def State.setStream (s : State) (n : Nat) (t : Option Stream) : State :=
  { s with streams := Tbl.put none s.streams n t }

def State.onStream (s : State) (n : Nat) (f : Stream → Stream) : State :=
  match s.stream n with
  | some t => s.setStream n (some (f t))
  | none => s

/-- The ring and window state image (R362). -/
def Stream.image (t : Stream) : Nat :=
  t.acqc.toNat + 2 ^ 32 * t.donec.toNat + 2 ^ 64 * t.relc.toNat + 2 ^ 96 * t.nseq.toNat + 2 ^ 128 * t.appc.toNat
    + 2 ^ 160 * t.win.length + 2 ^ 168 * (t.win.filter (·.pinned)).length
    + 2 ^ 176 * ((upto t.slots.length).filter fun k => (t.slots[k]?.map (·.st)) != some .free).foldl (fun m k => m + 2 ^ k) 0
    + 2 ^ 192 * t.win.foldl (fun m w => m + 2 ^ w.pos) 0
    + 2 ^ 256 * (t.win.filter (·.pinned)).foldl (fun m w => m + 2 ^ w.pos) 0

/-- The die keeps the link block's bytes 48 to 127 current (R352). -/
def State.syncLink (s : State) (n : Nat) : State :=
  match s.stream n with
  | some t =>
    if t.link = 0 then s
    else s.writeDie (t.link + 48) 80 (t.tdrop.toNat + 2 ^ 32 * t.ferr.toNat + 2 ^ 128 * t.image)
  | none => s

def pageNo (pa : Nat) : Nat := pa / 2 ^ 19

/-- Count of a key-value page (R344); an address that is no page base has none. -/
def State.pageCount (s : State) (pa : Nat) : Nat :=
  if pa % 2 ^ 19 = 0 then (Tbl.get 0 s.kvCount (pageNo pa)).toNat else 0

def State.setPageCount (s : State) (pa n : Nat) : State :=
  { s with kvCount := Tbl.put 0 s.kvCount (pageNo pa) (BitVec.ofNat 16 n) }

def State.setPageOwner (s : State) (pa : Nat) (x : CtxId) : State :=
  { s with kvOwner := Tbl.put 0 s.kvOwner (pageNo pa) x }

/-- A page returned to its owner's stack, or lost when the stack is full (R363). -/
def State.pushPage (s : State) (pa : Nat) : State :=
  let x := Tbl.get 0 s.kvOwner (pageNo pa)
  let c := s.ctx x
  if c.kpfree = c.kpcap then s.onCtx x fun c => { c with kplost := c.kplost + 1 }
  else (s.writeDie (c.kpb.toNat + 8 * c.kpfree.toNat) 8 pa).onCtx x fun c => { c with kpfree := c.kpfree + 1 }

/-- The page on top of a context's stack (R363, R365). -/
def State.topPage (s : State) (x : CtxId) : Option Nat :=
  let c := s.ctx x
  if c.kpfree = 0 then none else some (s.mem.read (c.kpb.toNat + 8 * (c.kpfree.toNat - 1)) 8)

def State.popPage (s : State) (x : CtxId) : State := s.onCtx x fun c => { c with kpfree := c.kpfree - 1 }

/-- A reference to a page given up (R344). -/
def State.dropPage (s : State) (pa : Nat) : State :=
  let n := s.pageCount pa - 1
  let s := s.setPageCount pa n
  if n = 0 then s.pushPage pa else s

/-! ### KVADV and KVPIN (R364 to R366) -/

/-- Positions a window holds (R362). -/
def Stream.occ (t : Stream) (p : Nat) : Bool := t.win.any fun w => w.pos == p

/-- The status word (R364). -/
def windowStatus (s : State) (t : Stream) (pos evp : Nat) : Nat :=
  pos + 2 ^ 8 * t.win.length + 2 ^ 16 * evp + 2 ^ 32 * ((s.ctx t.ctx).kpfree.toNat % 2 ^ 32)

/-- The first checks of KVADV and KVPIN on stream n: PRIV, then KVSTATE (R365, R366). -/
def kvStream (s : State) (n : Nat) (f : Stream → Commit) : Commit :=
  match s.stream n with
  | none => .raise .kvstate none
  | some t => if t.ctx ≠ s.me.ctx then .raise .priv none else if t.vw = 0 then .raise .kvstate none else f t

/-- A window operation commits: an eager release with what it changed, its status some time later, an acquire
(R364). -/
def kvReply (s : State) (n : Nat) (pos evp : Nat) : Commit :=
  match s.stream n with
  | none => .raise .kvstate none
  | some t =>
    let st := windowStatus s t pos evp
    let (d, s) := s.takeDelay Config.guideWindow
    let s := (s.tkFlight .latch none st (some (s.me.time + d)) true).2
    .ok ((s.acquireVc s.cur t.vc).syncLink n)

/-- A page joins a window as its newest (R365). -/
def State.appendPage (s : State) (n pos pa : Nat) : State :=
  s.onStream n fun t => { t with win := t.win ++ [⟨pos, pa, false⟩], appc := t.appc + 1 }

/-- KVADV once its page p is chosen: eviction, references, mapping (R365). -/
def State.windowAdvance (s : State) (n : Nat) (t : Stream) (e : Option WPage) (join : Bool) (p : Nat) : State × Nat :=
  let pos := match e with | some w => w.pos | none => ((upto t.cap).find? fun i => !t.occ i).getD 0
  let reuse := match e with | some w => w.pa == p | none => false
  let s := if !join && !reuse then s.popPage t.ctx else s
  let s := match e with
    | some w =>
      let s := (s.revokePage t.ctx (t.vw + 2 ^ 19 * w.pos)).onStream n fun t => { t with win := t.win.filter (· != w) }
      if reuse && !join then s.setPageCount p 0 else s.dropPage w.pa
    | none => s
  let s := if join then s.setPageCount p (s.pageCount p + 1) else (s.setPageCount p 1).setPageOwner p t.ctx
  (s.appendPage n pos p, pos)

/-- A window operation waits until the release has nothing before it. -/
def kvRelease (s : State) (f : State → Commit) : Commit :=
  reportFirst s true <|
  if s.releaseBusy then .freeze (s.waitOn fun _ => true)
  else if s.me.fl.any (·.acq) then .freeze (s.waitFor (·.acq)) else f s

def commitKvadv (v : V512) (s : State) : Commit :=
  let src := sval v
  let n := src % 64
  let join := bit src 6
  kvRelease s fun s =>
  if 2 ^ 7 ≤ src ∨ (join ∧ (s.me.port .tkX).isNone) then .raise .illopd none
  else kvStream s n fun t =>
    let jp := match s.me.port .tkX with | some x => sval x | none => 0
    if join ∧ (s.pageCount jp = 0 ∨ s.pageCount jp = 65535 ∨ Tbl.get 0 s.kvOwner (pageNo jp) ≠ s.me.ctx
        ∨ t.win.any (fun w => w.pa == jp)) then .raise .kvstate none
    else
      let e := if t.win.length = t.cap then t.win.find? fun w => !w.pinned else none
      let page := if join then some jp
        else match s.topPage t.ctx with
          | some p => some p
          | none => match e with
            | some w => if s.pageCount w.pa = 1 then some w.pa else none
            | none => none
      match page with
      | none => .raise .kvstate none
      | some p =>
        if (match e with | some w => s.pageBusy t.ctx (t.vw + 2 ^ 19 * w.pos) s.nextId | none => false)
        then .freeze (s.waitOn fun _ => true)
        else
          let (vc, s) := s.eagerRelease
          let (s, pos) := s.windowAdvance n t e join p
          let s := s.onStream n fun t => { t with vc := vcJoin t.vc vc }
          kvReply s n pos (match e with | some w => 128 + w.pos | none => 0)

def commitKvpin (v : V512) (s : State) : Commit :=
  let src := sval v
  let n := src % 64
  let p := bits src 13 8
  let un := bit src 16
  kvRelease s fun s =>
  if bits src 7 6 ≠ 0 ∨ bits src 15 14 ≠ 0 ∨ 2 ^ 17 ≤ src then .raise .illopd none
  else kvStream s n fun t =>
    match t.win.find? fun w => w.pos == p with
    | none => .raise .kvstate none
    | some w =>
      if (!un ∧ !w.pinned ∧ Nat.min 4 (t.cap - 1) ≤ (t.win.filter (·.pinned)).length) ∨ (un ∧ !w.pinned)
      then .raise .kvstate none
      else
        let (vc, s) := s.eagerRelease
        let s := s.onStream n fun t => { t with
          vc := vcJoin t.vc vc
          win := t.win.map fun x => if x.pos = p then { x with pinned := !un } else x }
        kvReply s n p 0

/-- KVADV (R365). -/
def execKvadv (m : Mv) (s : State) : Host.Outcome State Fault Refusal := runMove (.kvadv m) commitKvadv s
/-- KVPIN (R366). -/
def execKvpin (m : Mv) (s : State) : Host.Outcome State Fault Refusal := runMove (.kvpin m) commitKvpin s

end Sys2Proof.Machine
end

