-- ==== Sys2Proof/Machine/Bracken.lean ====
section
/-! DEFINITION. The Bracken unit: trees, walks, snapshots, pins, eviction, export and import (R331 to R351,
R401 to R403). Node arrays, unit stores and payload slots stand in device memory. -/

namespace Sys2Proof.Machine

/-! ### Trees and nodes (R332, R336) -/

def State.tree (s : State) (n : Nat) : Option Tree := Tbl.get none s.trees n

/-- What the depositor of a node's payload had seen (R350). -/
def State.setDeposit (s : State) (tn i : Nat) (v : Vc) : State :=
  match s.tree tn with
  | some t => { s with trees := Tbl.put none s.trees tn (some { t with vcs := Tbl.put [] t.vcs i v }) }
  | none => s

def Tree.g (t : Tree) : Nat := 2 ^ t.gl
def Tree.nodeAt (t : Tree) (i : Nat) : Nat := t.nodeb + 128 * i
def Tree.unitsAt (t : Tree) (i : Nat) : Nat := t.unitb + 4 * t.g * i
def Tree.payAt (t : Tree) (i : Nat) : Nat := t.payb + 2048 * i

/-- n bytes at byte o of node i. -/
def State.nodeF (s : State) (t : Tree) (i o n : Nat) : Nat := s.mem.read (t.nodeAt i + o) n
def State.setNodeF (s : State) (t : Tree) (i o n v : Nat) : State := s.writeDie (t.nodeAt i + o) n v

def State.nodeV (s : State) (t : Tree) (i : Nat) : Bool := bit (s.nodeF t i 48 4) 0
def State.nodeP (s : State) (t : Tree) (i : Nat) : Bool := bit (s.nodeF t i 48 4) 1
def State.nodeSus (s : State) (t : Tree) (i : Nat) : Bool := bit (s.nodeF t i 48 4) 2
def State.nodeChn (s : State) (t : Tree) (i : Nat) : Nat := s.nodeF t i 16 4
def State.nodePin (s : State) (t : Tree) (i : Nat) : Nat := s.nodeF t i 20 4
def State.nodeDepth (s : State) (t : Tree) (i : Nat) : Nat := s.nodeF t i 12 4

/-- The die's counters in the descriptor: NODES, FREE, COLL, EVICT (R332). -/
def State.treeCount (s : State) (t : Tree) (f : SnField) : Nat :=
  match f with
  | .nodes => s.mem.read (t.desc + 64) 4
  | .free => s.mem.read (t.desc + 68) 4
  | .coll => s.mem.read (t.desc + 72) 8
  | .evict => s.mem.read (t.desc + 80) 8

def State.setTreeCount (s : State) (t : Tree) (f : SnField) (v : Nat) : State :=
  match f with
  | .nodes => s.writeDie (t.desc + 64) 4 v
  | .free => s.writeDie (t.desc + 68) 4 v
  | .coll => s.writeDie (t.desc + 72) 8 v
  | .evict => s.writeDie (t.desc + 80) 8 v

/-- n bytes set to zero, which unlisted bytes read as (log 2). -/
def Memory.clear (m : Memory) (a n : Nat) : Memory := m.filter fun c => decide (c.1 < a) || decide (a + n ≤ c.1)

/-- A poisoned line lies in a range of physical memory. -/
def State.poisonIn (s : State) (a n : Nat) : Bool :=
  s.poison.any fun e => e.2 && decide (a < 128 * e.1 + 128) && decide (128 * e.1 < a + n)

/-- An uncorrectable soft error in a node's 128 bytes, or in its stored units beside (R342); the root has none. -/
def State.nodePoisoned (s : State) (t : Tree) (i : Nat) : Bool := s.poisonIn (t.nodeAt i) 128
def State.unitsPoisoned (s : State) (t : Tree) (i : Nat) : Bool := i != 0 && s.poisonIn (t.unitsAt i) (4 * t.g)

/-! ### The keyed hash (R334) -/

def hashStep (b h u : Nat) : Nat := (h * b + u + 1) % (2 ^ 61 - 1)

/-! ### The unit's accesses (R342, R350) -/

/-- For whom the unit acts: context, launch, and the strand, if one triggered it. -/
structure Reader where
  ctx : CtxId
  launch : Option Nat
  who : Option Who
deriving DecidableEq, Repr

/-- What a reader reads of a range has an uncorrectable soft error: in a line of memory, or in one that its strand's core
holds written (R342, R384). -/
def State.poisonFor (s : State) (q : Reader) (a n : Nat) : Bool :=
  s.poisonIn a n || match q.who with
    | some w => (s.core w.core).l1.any fun e =>
        e.poison && e.dirty != 0 && decide (a < 128 * e.line + 128) && decide (128 * e.line < a + n)
    | none => false

/-- What bars an access to n bytes at a virtual address: LEASE, PRIV without PW, ECCUNC where they are read (R342). -/
def State.barred (s : State) (q : Reader) (va n : Nat) (write read : Bool) : Option Cause :=
  (upto ((va + n - 1) / 2 ^ 19 + 1 - va / 2 ^ 19)).findSome? fun i =>
    let lo := Nat.max va (2 ^ 19 * (va / 2 ^ 19 + i))
    let hi := Nat.min (va + n) (2 ^ 19 * (va / 2 ^ 19 + i + 1))
    match (if lo < 2 ^ 56 then s.translate q.ctx q.launch lo else none) with
    | none => some .lease
    | some m =>
      if write && !m.pw then some .priv
      else if read && s.poisonFor q (m.phys lo) (hi - lo) then some .eccunc else none

/-- n bytes as a core's strand sees them: with what its L1 holds of them and has not written back (R350). -/
def State.seenBy (s : State) (c : CoreId) (a n : Nat) : Nat :=
  match (s.core c).l1Find (lineOf a) with
  | some e => if e.dirty = 0 then s.mem.read a n else (copyDirty s.mem e 128 0).read a n
  | none => s.mem.read a n

/-- Races of the unit's accesses for a strand (R327). -/
def State.unitRace (s : State) (w : Who) (write : Bool) (a : Nat) : State :=
  let g := granuleOf a
  if write then
    let raced := s.raceWrite w.uid w.vc false g
    let s := (s.noteWrite w false g).forgetSyncs (16 * g) 16 none
    if raced then s.addLate w.core [g] else s
  else
    let s := s.servePull (lineOf a) w.core
    let raced := s.raceRead w.uid w.vc false g
    let s := s.noteRead w false g
    if raced then s.addLate w.core [g] else s

/-- n bytes, within one granule, read at a virtual address. -/
def State.unitRead (s : State) (q : Reader) (va n : Nat) : State × Nat :=
  match s.translate q.ctx q.launch va with
  | none => (s, 0)
  | some m =>
    let a := m.phys va
    let s := s.touchBytes q.ctx a n
    match q.who with
    | some w => let s := s.unitRace w false a; (s, s.seenBy w.core a n)
    | none => (s, s.mem.read a n)

/-- n bytes read granule by granule. -/
def State.unitReadMany (s : State) (q : Reader) (va : Nat) : Nat → State × Nat
  | 0 => (s, 0)
  | n + 1 =>
    let (s, v) := s.unitReadMany q va n
    let (s, x) := s.unitRead q (va + 16 * n) 16
    (s, v + 2 ^ (128 * n) * x)

/-- Units j to j + n - 1 of an input. -/
def State.inputUnits (s : State) (q : Reader) (inp : Nat) : Nat → Nat → State × List Nat
  | 0, _ => (s, [])
  | n + 1, j =>
    let (s, u) := s.unitRead q (inp + 4 * j) 4
    let (s, r) := s.inputUnits q inp n (j + 1)
    (s, u :: r)

/-! ### The walk (R340) -/

structure Walk where
  cur : Nat
  h : Nat
  j : Nat
  best : Option Nat
  path : List Nat
deriving DecidableEq, Repr

/-- The child of a node with a key (R340). -/
def State.childOf (s : State) (t : Tree) (cur h : Nat) : Option Nat :=
  (upto t.nn).find? fun i => i != 0 && s.nodeV t i && !s.nodeSus t i && s.nodeF t i 0 8 == h && s.nodeF t i 8 4 == cur

/-- The stored units of a node. -/
def State.storedUnits (s : State) (t : Tree) (i : Nat) : List Nat :=
  (upto t.g).map fun k => s.mem.read (t.unitsAt i + 4 * k) 4

/-- A confirmation mismatch (R340, R349). -/
def State.suspect (s : State) (tn : Nat) (t : Tree) (c : Nat) : State :=
  let s := s.setNodeF t c 48 4 (s.nodeF t c 48 4 ||| 4)
  let s := s.setTreeCount t .coll ((s.treeCount t .coll + 1) % 2 ^ 64)
  s.postEvent t.own 0x86 0x0200 (tn + 2 ^ 32 * c + 2 ^ 64 * s.nodeDepth t c)

/-- The walk over the granules of an input, at most n of them (R340). -/
def State.walk (s : State) (tn : Nat) (t : Tree) (q : Reader) (inp : Nat) : Nat → Walk → State × Walk
  | 0, w => (s, w)
  | n + 1, w =>
    let (s, us) := s.inputUnits q inp t.g (w.j * t.g)
    let h := us.foldl (hashStep t.keyb) w.h
    match s.childOf t w.cur h with
    | none => (s, w)
    | some c =>
      let s := (s.touchBytes q.ctx (t.nodeAt c) 128).touchBytes q.ctx (t.unitsAt c) (4 * t.g)
      if s.storedUnits t c ≠ us then (s.suspect tn t c, w)
      else
        (s.setNodeF t c 24 8 s.gt).walk tn t q inp n
          ⟨c, h, w.j + 1, if s.nodeP t c then some c else w.best, c :: w.path⟩

def Walk.start : Walk := ⟨0, 0, 0, none, [0]⟩

/-- A walk that has ended so, and the granule it ended at if there is one, met an uncorrectable soft error: in the
index area, in a node of its path or in one whose units it compared (R342). A walk without a granule reads none of
them. -/
def State.walkPoisoned (s : State) (t : Tree) (w : Walk) (us : List Nat) : Bool :=
  let tried := if us = [] then none else s.childOf t w.cur (us.foldl (hashStep t.keyb) w.h)
  (decide (w.j ≠ 0) || decide (us ≠ [])) && (s.poisonIn t.idxb (16 * t.nn)
    || (w.path ++ tried.toList).any fun i => s.nodePoisoned t i || s.unitsPoisoned t i)

/-! ### Eviction (R348) -/

/-- Pages a payload slot lists (R338). -/
def payPages (s : State) (slot : Nat) : List Nat :=
  (upto (bits (s.mem.read (slot + 576) 8) 11 4)).map fun k => s.mem.read (slot + 640 + 8 * k) 8 % 2 ^ 56

/-- The node an eviction chooses: least TOUCH, then the lower number. -/
def State.victim (s : State) (t : Tree) (path : List Nat) : Option Nat :=
  (upto t.nn).foldl (fun b i =>
    if i != 0 && s.nodeV t i && s.nodeChn t i + s.nodePin t i == 0 && !path.contains i then
      match b with
      | none => some i
      | some j => if s.nodeF t i 24 8 < s.nodeF t j 24 8 then some i else b
    else b) none

def State.evictNode (s : State) (tn : Nat) (t : Tree) (i : Nat) : State :=
  let p := s.nodeF t i 8 4
  let s := s.setNodeF t p 16 4 (s.nodeChn t p - 1)
  let s := if s.nodeP t i then (payPages s (t.payAt i)).foldl (fun s a => s.dropPage a) s else s
  let s := s.writeDie (t.nodeAt i) 128 0
  let s := s.setTreeCount t .evict ((s.treeCount t .evict + 1) % 2 ^ 64)
  let s := s.setTreeCount t .free (s.treeCount t .free + 1)
  (s.setTreeCount t .nodes (s.treeCount t .nodes - 1)).setDeposit tn i []

/-- Evictions until m nodes are free or none can be evicted: at most n of them (R343). -/
def State.makeRoom (s : State) (tn : Nat) (t : Tree) (path : List Nat) (m : Nat) : Nat → State
  | 0 => s
  | n + 1 =>
    if m ≤ s.treeCount t .free then s
    else match s.victim t path with
      | none => s
      | some i => (s.evictNode tn t i).makeRoom tn t path m n

/-- Room for m new nodes reads the node array when too few are free, and the payloads of what it evicts, which an
uncorrectable soft error refuses (R342, R348). -/
def State.roomPoisoned (s : State) (tn : Nat) (t : Tree) (path : List Nat) (m : Nat) : Bool :=
  if m ≤ s.treeCount t .free then false
  else
    let s' := s.makeRoom tn t path m t.nn
    s.poisonIn t.nodeb (128 * t.nn)
      || (upto t.nn).any fun i => s.nodeV t i && s.nodeP t i && !s'.nodeV t i && s.poisonIn (t.payAt i) 2048

/-! ### Results (R341) -/

def bkResult (node depth stat : Nat) : Nat := stat + 2 ^ 8 * depth + 2 ^ 32 * node
def bkRefused (c : Cause) : Nat := 0x80 + 2 ^ 8 * c.code

/-! ### SNAP (R343) -/

/-- New nodes for granules j to j + n - 1 below cur, with the granules' units. -/
def State.newNodes (s : State) (t : Tree) (q : Reader) (inp : Nat) : Nat → Nat → Nat → Nat → State × Nat
  | 0, _, cur, _ => (s, cur)
  | n + 1, j, cur, h =>
    let (s, us) := s.inputUnits q inp t.g (j * t.g)
    let h := us.foldl (hashStep t.keyb) h
    match (upto t.nn).find? fun i => i != 0 && !s.nodeV t i with
    | none => (s, cur)
    | some i =>
      let s := s.writeDie (t.nodeAt i) 128
        (h + 2 ^ 64 * cur + 2 ^ 96 * (j + 1) + 2 ^ 192 * s.gt + 2 ^ 320 * t.unitsAt i + 2 ^ 384)
      let s := s.writeDie (t.unitsAt i) (4 * t.g) (packNat 32 us)
      let s := s.setNodeF t cur 16 4 (s.nodeChn t cur + 1)
      let s := s.setTreeCount t .nodes (s.treeCount t .nodes + 1)
      (s.setTreeCount t .free (s.treeCount t .free - 1)).newNodes t q inp n (j + 1) i h

/-- A payload placed in a node (R338, R343). -/
def State.placePayload (s : State) (tn : Nat) (t : Tree) (i : Nat) (recs st nrec : Nat) (pages : List Nat) (vc : Vc) : State :=
  let a := t.payAt i
  let s := s.writeDie a 2048 (recs % 2 ^ 4096 + 2 ^ 4096 * (st % 2 ^ 512)
    + 2 ^ 4608 * (nrec + 16 * pages.length) + 2 ^ 5120 * packNat 64 pages)
  let s := s.setNodeF t i 32 8 a
  let s := s.setNodeF t i 48 4 (s.nodeF t i 48 4 ||| 2)
  (s.setNodeF t i 24 8 s.gt).setDeposit tn i vc

/-- Fields of a SNAP descriptor, 64 bytes (R343); none when it is malformed. -/
structure SnapDesc where
  win : Option Nat
  nrec : Nat
  tree : Nat
  inp : Nat
  k : Nat
  reca : Nat
  sta : Nat
deriving DecidableEq, Repr

def snapDesc (d : Nat) : Option SnapDesc :=
  let nrec := bits d 11 8
  let inp := bits d 127 64
  let k := bits d 191 128
  let reca := bits d 255 192
  let sta := bits d 319 256
  if bits d 63 23 ≠ 0 ∨ bits d 15 12 ≠ 0 ∨ bits d 7 6 ≠ 0 ∨ bits d 511 320 ≠ 0 ∨ nrec = 0 ∨ 8 < nrec
      ∨ inp % 4 ≠ 0 ∨ k = 0 ∨ 2 ^ 24 ≤ k ∨ reca % 64 ≠ 0 ∨ sta % 64 ≠ 0 then none
  else some ⟨if bit d 22 then some (bits d 21 16) else none, nrec, bits d 5 0, inp, k, reca, sta⟩

/-- A tree a strand may use: ILLOPD when it is disabled, PRIV when it is foreign (R342). -/
def State.treeFor (s : State) (x : CtxId) (n : Nat) : Except Cause Tree :=
  match s.tree n with
  | none => .error .illopd
  | some t => if x ≠ 0 ∧ x ≠ t.own then .error .priv else .ok t

/-- SNAP performed at the unit (R343). -/
def State.snapOp (s : State) (q : Reader) (va : Nat) (vc : Vc) : State × Nat :=
  match s.barred q va 64 false true with
  | some c => (s, bkRefused c)
  | none =>
  let (s, d) := s.unitReadMany q va 4
  match s.treeFor q.ctx (d % 64), snapDesc d with
  | .error c, _ => (s, bkRefused c)
  | .ok _, none => (s, bkRefused .illopd)
  | .ok t, some e =>
    let n := 4 * t.g * e.k
    match ((s.barred q e.inp n false true).or (s.barred q e.reca (64 * e.nrec) false true)).or
        (s.barred q e.sta 64 false true) with
    | some c => (s, bkRefused c)
    | none =>
    let wok := match e.win with
      | some n => (match s.stream n with | some w => w.ctx == q.ctx | none => false)
      | none => true
    let (s, recs) := s.unitReadMany q e.reca (4 * e.nrec)
    let (s, st) := s.unitReadMany q e.sta 4
    let recOk := (upto e.nrec).all fun i =>
      let w1 := getBytes recs (64 * i + 8) 8
      w1 % 16 == 0 && bits w1 9 6 == t.own.toNat
    if !wok || !recOk then (s, bkRefused .illopd)
    else
      let s0 := s
      let (s, w) := s.walk e.tree t q e.inp e.k Walk.start
      let m := e.k - w.j
      let us := if m = 0 then [] else (s.inputUnits q e.inp t.g (w.j * t.g)).2
      if s0.walkPoisoned t w us || s.roomPoisoned e.tree t w.path m then (s0, bkRefused .eccunc)
      else if m = 0 ∧ s.nodeP t w.cur then (s, bkResult w.cur e.k 4)
      else
        let s := s.makeRoom e.tree t w.path m t.nn
        let win := match e.win.bind s.stream with | some x => x.win | none => []
        if s.treeCount t .free < m ∨ win.any (fun p => s.pageCount p.pa == 65535) then (s, bkResult 0 0 2)
        else
          let (s, cur) := s.newNodes t q e.inp m w.j w.cur w.h
          let s := s.placePayload e.tree t cur recs st e.nrec
            (win.map fun p => p.pa + 2 ^ 63 * boolCode p.pinned) vc
          let s := win.foldl (fun s p => s.setPageCount p.pa (s.pageCount p.pa + 1)) s
          (s, bkResult cur e.k 0)

/-! ### SNFIND, pins, counters (R345 to R347) -/

/-- Fields of an SNFIND descriptor: tree, input, units, destination (R345). -/
structure FindDesc where
  tree : Nat
  inp : Nat
  n : Nat
  dst : Nat
deriving DecidableEq, Repr

def findDesc (d : Nat) : Option FindDesc :=
  let inp := bits d 127 64
  let dst := bits d 255 192
  if bits d 63 6 ≠ 0 ∨ bits d 191 160 ≠ 0 ∨ bits d 511 256 ≠ 0 ∨ inp % 4 ≠ 0 ∨ dst % 64 ≠ 0 then none
  else some ⟨bits d 5 0, inp, bits d 159 128, dst⟩

/-- A pin added to a node. -/
def State.pinNode (s : State) (t : Tree) (i : Nat) : State := s.setNodeF t i 20 4 (s.nodePin t i + 1)

/-- The lookup of R345 without its copy: the walk, then a pin; SNOMATCH 1 and BRKFULL 2 otherwise. -/
def State.findOp (s : State) (t : Tree) (q : Reader) (e : FindDesc) : State × Except Nat Nat :=
  let (s, w) := s.walk e.tree t q e.inp (e.n / t.g) Walk.start
  match w.best with
  | none => (s, .error 1)
  | some b => if s.nodePin t b = 2 ^ 32 - 1 then (s, .error 2) else (s.pinNode t b, .ok b)

/-- The lookup meets an uncorrectable soft error: in what its walk reads, or in the payload where that is read too
(R342). -/
def State.findPoisoned (s : State) (t : Tree) (q : Reader) (e : FindDesc) (payload : Bool) : Bool :=
  let k := e.n / t.g
  let w := (s.walk e.tree t q e.inp k Walk.start).2
  let us := if w.j < k then (s.inputUnits q e.inp t.g (w.j * t.g)).2 else []
  let n := 4 * t.g * Nat.min (w.j + 1) k
  s.walkPoisoned t w us || (decide (0 < n) && (s.barred q e.inp n false true).isSome)
    || (match w.best with
      | some b => s.nodePoisoned t b || (payload && s.poisonIn (t.payAt b) 2048)
      | none => false)

/-- The core's own copies of a destination's lines are written back and removed before the unit's operation (R270,
R350). -/
def State.purgeDest (s : State) (q : Reader) (w : Who) (dst : Nat) : State :=
  (upto 32).foldl (fun s i =>
    match s.translate q.ctx q.launch (dst + 64 * i) with
    | none => s
    | some m => s.purgeLine w.core (lineOf (m.phys (dst + 64 * i)))) s

/-- A payload image copied to its destination for a strand (R345, R350). -/
def State.copyPayload (s : State) (q : Reader) (w : Who) (slot dst : Nat) : State :=
  let s := s.touchBytes q.ctx slot 2048
  (upto 128).foldl (fun s i =>
    match s.translate q.ctx q.launch (dst + 16 * i) with
    | none => s
    | some m =>
      let a := m.phys (dst + 16 * i)
      let v := s.mem.read (slot + 16 * i) 16
      (s.unitRace w true a).writeDie a 16 v) s

/-- SNFIND for a strand (R345). -/
def State.snfindOp (s : State) (q : Reader) (w : Who) (va : Nat) : State × Nat :=
  match s.barred q va 64 false true with
  | some c => (s, bkRefused c)
  | none =>
  let (s, d) := s.unitReadMany q va 4
  match s.treeFor q.ctx (d % 64), findDesc d with
  | .error c, _ => (s, bkRefused c)
  | .ok _, none => (s, bkRefused .illopd)
  | .ok t, some e =>
    match (if e.n = 0 then none else s.barred q e.inp (4 * e.n) false false).or
        (if e.dst = 0 then none else s.barred q e.dst 2048 true false) with
    | some c => (s, bkRefused c)
    | none =>
      let s := if e.dst = 0 then s else s.purgeDest q w e.dst
      if s.findPoisoned t q e (decide (e.dst ≠ 0)) then (s, bkRefused .eccunc)
      else match s.findOp t q e with
        | (s, .error n) => (s, bkResult 0 0 n)
        | (s, .ok b) =>
          let s := if e.dst = 0 then s else s.copyPayload q w (t.payAt b) e.dst
          (s.acquireVc w.core (Tbl.get [] t.vcs b), bkResult b (s.nodeDepth t b) 0)

/-- SNPIN (R346). -/
def State.snpinOp (s : State) (t : Tree) (i : Nat) : State × Nat :=
  if i = 0 ∨ t.nn ≤ i ∨ !s.nodeV t i then (s, bkResult 0 0 1)
  else if s.nodePin t i = 2 ^ 32 - 1 then (s, bkResult 0 0 2)
  else ((s.pinNode t i).setNodeF t i 24 8 s.gt, bkResult i (s.nodeDepth t i) 0)

/-- SNREL (R346). -/
def State.snrelOp (s : State) (t : Tree) (i : Nat) : State × Nat :=
  if i = 0 ∨ t.nn ≤ i ∨ !s.nodeV t i ∨ s.nodePin t i = 0 then (s, bkResult 0 0 1)
  else (s.setNodeF t i 20 4 (s.nodePin t i - 1), bkResult i (s.nodeDepth t i) 0)

/-! ### The host's side: BKEN, export, import (R333, R402, R403) -/

/-- A descriptor read when its tree is enabled; none when a field is out of range (R332, R333). -/
def readTree (m : Memory) (a : Nat) : Option Tree :=
  let w0 := m.read a 8
  let w1 := m.read (a + 8) 8
  let nodeb := m.read (a + 16) 8
  let nnw := m.read (a + 24) 8
  let unitb := m.read (a + 32) 8
  let payb := m.read (a + 40) 8
  let idxb := m.read (a + 48) 8
  let gl := bits w1 11 8
  if bits w0 63 61 ≠ 0 ∨ w0 < 2 ∨ 2 ^ 61 - 2 < w0 ∨ bits w1 63 12 ≠ 0 ∨ bits w1 7 4 ≠ 0 ∨ gl < 4 ∨ 12 < gl
      ∨ nodeb % 4096 ≠ 0 ∨ unitb % 4096 ≠ 0 ∨ payb % 4096 ≠ 0 ∨ idxb % 4096 ≠ 0
      ∨ nnw < 2 ∨ 2 ^ 20 < nnw ∨ m.read (a + 56) 8 ≠ 0 ∨ m.read (a + 88) 40 ≠ 0 then none
  else some ⟨BitVec.ofNat 4 w1, gl, w0, nnw, nodeb, unitb, payb, idxb, a, []⟩

/-- A line lies in the storage of a tree. -/
def Tree.holds (t : Tree) (line : Nat) : Bool :=
  let within (a n : Nat) : Bool := decide (a < 128 * line + 128) && decide (128 * line < a + n)
  within t.nodeb (128 * t.nn) || within t.unitb (4 * t.g * t.nn) || within t.payb (2048 * t.nn)
    || within t.idxb (16 * t.nn)

/-- Tree n becomes enabled: empty but for its root, and rid of earlier errors in its storage (R333, R342). -/
def State.enableTree (s : State) (n : Nat) : State :=
  match readTree s.mem (s.die.bktb.toNat + 128 * n) with
  | none => s
  | some t =>
    let s := State.written { s with mem := Memory.clear s.mem t.nodeb (128 * t.nn) } t.nodeb (128 * t.nn)
    let s := { s with poison := s.poison.filter fun e => !t.holds e.1 }
    let s := s.setNodeF t 0 48 4 1
    let s := (s.setTreeCount t .nodes 0).setTreeCount t .free (t.nn - 1)
    let s := (s.setTreeCount t .coll 0).setTreeCount t .evict 0
    { s with
      trees := Tbl.put none s.trees n (some t)
      die := { s.die with bken := s.die.bken ||| BitVec.ofNat 64 (2 ^ n) } }

/-- A tree is discarded: its readable payloads give up their pages (R333, R342). -/
def State.disableTree (s : State) (n : Nat) : State :=
  match s.tree n with
  | none => s
  | some t =>
    let s := (upto t.nn).foldl (fun s i =>
      if s.nodeV t i && s.nodeP t i && !s.poisonIn (t.payAt i) 2048 && !s.poisonIn (t.nodeAt i) 128
      then (payPages s (t.payAt i)).foldl (fun s a => s.dropPage a) s else s) s
    { s with
      trees := Tbl.put none s.trees n none
      die := { s.die with bken := s.die.bken &&& ~~~(BitVec.ofNat 64 (2 ^ n)) } }

/-- Status of a snapshot transfer (R401). -/
def State.bkxDone (s : State) (stat cause node : Nat) : State :=
  { s with die := { s.die with bkxstat := BitVec.ofNat 64 (stat + 2 ^ 8 * cause + 2 ^ 32 * node) } }

/-- Nodes of a path from the root's child down to node i, for at most n steps. -/
def State.pathTo (s : State) (t : Tree) : Nat → Nat → List Nat
  | 0, _ => []
  | n + 1, i => if i = 0 then [] else s.pathTo t n (s.nodeF t i 8 4) ++ [i]

/-- Physical memory copied. -/
def State.copyPhys (s : State) (src dst n : Nat) : State := s.writeDie dst n (s.mem.read src n)

/-- Nodes of a path, whose lines and units are read. -/
def State.pathPoisoned (s : State) (t : Tree) (l : List Nat) : Bool :=
  l.any fun i => s.nodePoisoned t i || s.unitsPoisoned t i

/-- Export (R402): the node is pinned before its header is written, and unpinned where its image fits. What it moves is
charged to the tree's owner (R380). -/
def State.exportOp (s : State) : State :=
  let arg := s.die.bkxarg.toNat
  let i := bits arg 25 6
  let b := s.die.bkxbuf.toNat
  match s.tree (arg % 64) with
  | none => s.bkxDone 0x80 Cause.illopd.code 0
  | some t =>
    if t.nn ≤ i ∨ !s.nodeV t i ∨ !s.nodeP t i then s.bkxDone 0x80 Cause.illopd.code i
    else if s.nodePoisoned t i || s.pathPoisoned t (s.pathTo t (s.nodeDepth t i) i) || s.poisonIn (t.payAt i) 2048
    then s.bkxDone 0x80 Cause.eccunc.code i
    else
      let depth := s.nodeDepth t i
      let pages := payPages s (t.payAt i)
      let p := 64 + 4 * t.g * depth
      let len := p + 2048 + 2 ^ 19 * pages.length
      let s0 := s
      let s := (s.pinNode t i).writeDie b 64 (1 + 2 ^ 8 * t.gl + 2 ^ 12 * pages.length + 2 ^ 20 * depth
        + 2 ^ 44 * s.die.devid.toNat + 2 ^ 64 * len)
      if s.die.bkxlen.toNat < len then (s.chargedTo s0 t.own).bkxDone 0x80 Cause.hbound.code i
      else
        let (s, _) := (s.pathTo t depth i).foldl (fun (e : State × Nat) n =>
          (e.1.copyPhys (t.unitsAt n) (b + 64 + 4 * t.g * e.2) (4 * t.g), e.2 + 1)) (s, 0)
        let s := s.copyPhys (t.payAt i) (b + p) 2048
        let (s, _) := pages.foldl (fun (e : State × Nat) pa =>
          let w := e.1.mem.read (b + p + 640 + 8 * e.2) 8
          let s := e.1.writeDie (b + p + 640 + 8 * e.2) 8 (w / 2 ^ 63 * 2 ^ 63 + e.2)
          (s.copyPhys pa (b + p + 2048 + 2 ^ 19 * e.2) (2 ^ 19), e.2 + 1)) (s, 0)
        ((s.snrelOp t i).1.chargedTo s0 t.own).bkxDone 1 0 i

/-- Reading an import's units at their physical place: an identity reader's walk needs none of R342. -/
def imageUnits (m : Memory) (b n : Nat) : List Nat := (upto n).map fun k => m.read (b + 4 * k) 4

/-- The walk of an import over units that stand in an image (R340, R403). -/
def State.walkImage (s : State) (tn : Nat) (t : Tree) (b : Nat) : Nat → Walk → State × Walk
  | 0, w => (s, w)
  | n + 1, w =>
    let us := imageUnits s.mem (b + 4 * t.g * w.j) t.g
    let h := us.foldl (hashStep t.keyb) w.h
    match s.childOf t w.cur h with
    | none => (s, w)
    | some c =>
      if s.storedUnits t c ≠ us then (s.suspect tn t c, w)
      else (s.setNodeF t c 24 8 s.gt).walkImage tn t b n
        ⟨c, h, w.j + 1, if s.nodeP t c then some c else w.best, c :: w.path⟩

/-- New nodes from an image (R403). -/
def State.newNodesImage (s : State) (t : Tree) (b : Nat) : Nat → Nat → Nat → Nat → State × Nat
  | 0, _, cur, _ => (s, cur)
  | n + 1, j, cur, h =>
    let us := imageUnits s.mem (b + 4 * t.g * j) t.g
    let h := us.foldl (hashStep t.keyb) h
    match (upto t.nn).find? fun i => i != 0 && !s.nodeV t i with
    | none => (s, cur)
    | some i =>
      let s := s.writeDie (t.nodeAt i) 128
        (h + 2 ^ 64 * cur + 2 ^ 96 * (j + 1) + 2 ^ 192 * s.gt + 2 ^ 320 * t.unitsAt i + 2 ^ 384)
      let s := s.writeDie (t.unitsAt i) (4 * t.g) (packNat 32 us)
      let s := s.setNodeF t cur 16 4 (s.nodeChn t cur + 1)
      let s := s.setTreeCount t .nodes (s.treeCount t .nodes + 1)
      (s.setTreeCount t .free (s.treeCount t .free - 1)).newNodesImage t b n (j + 1) i h

/-- Pages k, k + 1, … of an image taken from the pool of a context and filled: their addresses (R403). -/
def State.importPages (s : State) (x : CtxId) (b : Nat) : Nat → Nat → State × List Nat
  | 0, _ => (s, [])
  | n + 1, k =>
    match s.topPage x with
    | none => (s, [])
    | some p =>
      let s := ((s.popPage x).copyPhys (b + 2 ^ 19 * k) p (2 ^ 19)).setPageCount p 1 |>.setPageOwner p x
      let (s, r) := s.importPages x b n (k + 1)
      (s, p :: r)

/-- Import (R403). An image of depth 0, or of more than 64 pages, is no image of R402 and is refused (log 21). -/
def State.importOp (s : State) : State :=
  let tn := s.die.bkxarg.toNat % 64
  let b := s.die.bkxbuf.toNat
  let w0 := s.mem.read b 8
  let len := s.mem.read (b + 8) 8
  let depth := bits w0 43 20
  let npg := bits w0 18 12
  match s.tree tn with
  | none => s.bkxDone 0x80 Cause.illopd.code 0
  | some t =>
    if bits w0 7 0 ≠ 1 ∨ bit w0 19 ∨ depth = 0 ∨ 64 < npg ∨ s.mem.read (b + 16) 48 ≠ 0 ∨ bits w0 11 8 ≠ t.gl ∨ s.die.bkxlen.toNat < len
    then s.bkxDone 0x80 Cause.illopd.code 0
    else
      let p := 64 + 4 * t.g * depth
      let s0 := s
      let (s, w) := s.walkImage tn t (b + 64) depth Walk.start
      let m := depth - w.j
      let us := if m = 0 then [] else imageUnits s.mem (b + 64 + 4 * t.g * w.j) t.g
      if s0.walkPoisoned t w us || s.roomPoisoned tn t w.path m || s.poisonIn b len
      then s0.bkxDone 0x80 Cause.eccunc.code 0
      else if m = 0 ∧ s.nodeP t w.cur then s.bkxDone 4 0 w.cur
      else
        let s := s.makeRoom tn t w.path m t.nn
        if s.treeCount t .free < m ∨ (s.ctx t.own).kpfree.toNat < npg then s.bkxDone 2 0 0
        else
          let (s, cur) := s.newNodesImage t (b + 64) m w.j w.cur w.h
          let (s, pages) := s.importPages t.own (b + p + 2048) npg 0
          let tags := (upto npg).map fun k => s.mem.read (b + p + 640 + 8 * k) 8 / 2 ^ 63 * 2 ^ 63
          let pay := s.mem.read (b + p) 2048
          let s := s.placePayload tn t cur (pay % 2 ^ 4096) (pay / 2 ^ 4096) (bits pay 4611 4608)
            (List.zipWith (· + ·) pages tags) s.hostVc
          (((s.setNodeF t cur 20 4 1).countLink none (if onLink b then len else 0)).chargedTo s0 t.own).bkxDone 1 0 cur

/-- Request 3: an imported node unpinned as SNREL does, an uncorrectable soft error in it refused (R342, R403). -/
def State.unpinOp (s : State) : State :=
  let arg := s.die.bkxarg.toNat
  let i := bits arg 25 6
  match s.tree (arg % 64) with
  | none => s.bkxDone 0x80 Cause.illopd.code 0
  | some t =>
    if i < t.nn ∧ s.nodePoisoned t i then s.bkxDone 0x80 Cause.eccunc.code i
    else (s.snrelOp t i).1.bkxDone 1 0 i

/-- A launch's pin given up when it completes (R351). -/
def State.unpinLaunch (s : State) (p : Nat × Nat) : State :=
  match s.tree p.1 with
  | some t => (s.snrelOp t p.2).1
  | none => s

/-! ### Triggers -/

/-- The reader a strand's trigger is. -/
def State.reader (s : State) : Reader :=
  ⟨s.me.ctx, s.me.run.bind (·.launch), some (s.who s.cur)⟩

def commitHashu (keep : Bool) (v : V512) (s : State) : Commit :=
  let src := sval v
  needPort s .tkX fun x =>
    if 2 ^ 61 - 1 ≤ sval x ∨ 2 ^ 38 ≤ src then .raise .illopd none
    else match s.treeFor s.me.ctx (bits src 37 32) with
      | .error c => .raise c none
      | .ok t => tkDeliver s .s keep (hashStep t.keyb (sval x) (src % 2 ^ 32)) 4 id

/-- The checks of SNAP and SNFIND at commit (R342). -/
def bkAddress (s : State) (a : Nat) (f : Commit) : Commit :=
  if 2 ^ 56 ≤ a then .raise .illopd none
  else if a % 64 ≠ 0 then .raise .align none
  else if (s.translateHere a).isNone then .raise .lease (some (BitVec.ofNat 64 a))
  else f

/-- An operation of the unit set in flight (R335, R350): its result some time later, and with it the first of the races
that its accesses met (R327). What it moves is charged to the strand's context (R380). -/
def State.unitFlight (s : State) (d : Option RegName) (acq : Bool) (f : State → State × Nat) : State :=
  let late := s.me.late
  let s0 := s
  let (s, r) := f s
  let s := s.chargedTo s0 s0.me.ctx
  let raced := s.me.late.drop late.length
  let s := s.onMe fun k => { k with late := late }
  let (dl, s) := s.takeDelay Config.guideBracken
  let (n, s) := s.tkFlight .s d r (some (s.me.time + dl)) acq
  match raced with
  | (c, a) :: _ => s.onMe fun k => { k with fl := k.fl.map fun f => if f.id = n then { f with bad := some c, va := a } else f }
  | [] => s

/-- SNAP: an eager release, whose reads stand at its commit (R321, R350); its bundle waits for what the release waits
for (R317, log 14). -/
def commitSnap (keep : Bool) (v : V512) (s : State) : Commit :=
  reportFirst s true <|
  withDest s .s keep .tkTo fun d =>
    bkAddress s (sval v) <|
      if s.releaseBusy then .freeze (s.waitOn fun _ => true)
      else
        let (vc, s) := s.eagerRelease
        .ok (s.unitFlight d false fun s => s.snapOp s.reader (sval v) vc)

/-- SNFIND: an acquire when its result arrives, its accesses placed at its commit (R350, log 14). -/
def commitSnfind (keep : Bool) (v : V512) (s : State) : Commit :=
  reportFirst s false <|
  if s.releaseBusy then .freeze (s.waitOn fun _ => true)
  else
    withDest s .s keep .tkTo fun d =>
      bkAddress s (sval v) <|
        .ok (s.engineRead.unitFlight d true fun s => s.snfindOp s.reader (s.who s.cur) (sval v))

/-- SNPIN, SNREL and SNSTAT on a tree; of a node n that cannot be read the first two are refused (R342, R346, R347). -/
def bkTrigger (s : State) (keep : Bool) (reserved : Bool) (tn : Nat) (n : Option Nat) (f : State → Tree → State × Nat) :
    Commit :=
  withDest s .s keep .tkTo fun d =>
    if reserved then .raise .illopd none
    else match s.treeFor s.me.ctx tn with
      | .error c => .raise c none
      | .ok t =>
        .ok (s.unitFlight d false fun s =>
          if n.any fun i => decide (i < t.nn) && s.nodePoisoned t i then (s, bkRefused .eccunc) else f s t)

def commitSnpin (keep : Bool) (v : V512) (s : State) : Commit :=
  let i := bits (sval v) 19 0
  bkTrigger s keep (decide (2 ^ 26 ≤ sval v)) (bits (sval v) 25 20) (some i) fun s t => s.snpinOp t i

def commitSnrel (keep : Bool) (v : V512) (s : State) : Commit :=
  let i := bits (sval v) 19 0
  bkTrigger s keep (decide (2 ^ 26 ≤ sval v)) (bits (sval v) 25 20) (some i) fun s t => s.snrelOp t i

def commitSnstat (f : SnField) (keep : Bool) (v : V512) (s : State) : Commit :=
  bkTrigger s keep (decide (2 ^ 6 ≤ sval v)) (bits (sval v) 5 0) none fun s t => (s, s.treeCount t f)

/-- HASHU (R335). -/
def execHashu (m : Mv) (s : State) : Host.Outcome State Fault Refusal := runMove (.hashu m) (commitHashu m.k) s
/-- SNAP (R343). -/
def execSnap (m : Mv) (s : State) : Host.Outcome State Fault Refusal := runMove (.snap m) (commitSnap m.k) s
/-- SNFIND (R345). -/
def execSnfind (m : Mv) (s : State) : Host.Outcome State Fault Refusal := runMove (.snfind m) (commitSnfind m.k) s
/-- SNPIN (R346). -/
def execSnpin (m : Mv) (s : State) : Host.Outcome State Fault Refusal := runMove (.snpin m) (commitSnpin m.k) s
/-- SNREL (R346). -/
def execSnrel (m : Mv) (s : State) : Host.Outcome State Fault Refusal := runMove (.snrel m) (commitSnrel m.k) s
/-- SNSTAT (R347). -/
def execSnstat (f : SnField) (m : Mv) (s : State) : Host.Outcome State Fault Refusal :=
  runMove (.snstat f m) (commitSnstat f m.k) s

/-- The host sets a bit of BKEN (R333). -/
def execBkenEnable (t : BitVec 6) (s : State) : Host.Outcome State Fault Refusal :=
  .next (if (s.tree t.toNat).isSome then s else s.enableTree t.toNat)
/-- The host clears a bit of BKEN (R333). -/
def execBkenDisable (t : BitVec 6) (s : State) : Host.Outcome State Fault Refusal := .next (s.disableTree t.toNat)
/-- Snapshot export (R402). -/
def execSnapshotExport (s : State) : Host.Outcome State Fault Refusal := .next s.exportOp
/-- Snapshot import (R403). -/
def execSnapshotImport (s : State) : Host.Outcome State Fault Refusal := .next s.importOp
/-- An imported node unpinned (R403). -/
def execSnapshotUnpin (s : State) : Host.Outcome State Fault Refusal := .next s.unpinOp

end Sys2Proof.Machine
end

