-- ==== Sys2Proof/Machine/Branch.lean ====
section
/-! DEFINITION. The branch and loop unit (R94, R110 to R117, R181). -/

namespace Sys2Proof.Machine

/-- The executing segment (R75). -/
def Core.segment (k : Core) : Option Segment :=
  match k.half k.cur with
  | .full g => if g.addr = k.pc.seg then some g else none
  | _ => none

/-- Bundle count of the executing segment (R71). -/
def Core.bcnt (k : Core) : Nat := match k.segment with | some g => g.bundles.length | none => 0

/-- Bundle 0 of the next segment; address 0 when there is none (R74). -/
def Core.nextSegment (k : Core) : Target := ⟨match k.segment with | some g => g.next | none => 0, 0⟩

/-- The bundle after index b of the executing segment (R67, R115). -/
def Core.afterIndex (k : Core) (b : Nat) : Target :=
  if b + 1 < k.bcnt then ⟨k.pc.seg, BitVec.ofNat 7 (b + 1)⟩ else k.nextSegment

/-- The bundle that follows when none of the bundle's slots branches (R112). -/
def Core.following (k : Core) : Target :=
  if hdrKind k.bs.hdr = 5 then k.nextSegment else k.afterIndex k.pc.bix.toNat

/-- A branch target in either form; none is ILLOPD (R94, R110). -/
def branchTarget (k : Core) (t : TForm) (v : Nat) : Option Target :=
  match t with
  | .abs => if badAbs v then none else some (Target.ofAbs v)
  | .seg => if v < k.bcnt ∧ v < 128 then some ⟨k.pc.seg, BitVec.ofNat 7 v⟩ else none

/-- A taken branch: it decides the next bundle at bundle end (R111). -/
def takeBranch (s : State) (t : Target) : State := s.onMe fun k => { k with bs := { k.bs with branch := some t } }

def commitJmp (t : TForm) (v : V512) (s : State) : Commit :=
  match branchTarget s.me t (sval v) with
  | none => .raise .illopd none
  | some d => .ok (takeBranch s d)

def commitBz (t : TForm) (v : V512) (s : State) : Commit :=
  needPort s .brX fun x =>
    match branchTarget s.me t (sval v) with
    | none => .raise .illopd none
    | some d => .ok (if sval x = 0 then takeBranch s d else s)

def commitBnz (t : TForm) (v : V512) (s : State) : Commit :=
  needPort s .brX fun x =>
    match branchTarget s.me t (sval v) with
    | none => .raise .illopd none
    | some d => .ok (if sval x ≠ 0 then takeBranch s d else s)

/-- The link of a call: the bundle that would follow it, 0 when there is none (R112). -/
def Core.link (k : Core) : Nat := if k.following.seg = 0 then 0 else k.following.abs.toNat

def commitCall (t : TForm) (keep : Bool) (v : V512) (s : State) : Commit :=
  match branchTarget s.me t (sval v) with
  | none => .raise .illopd none
  | some d =>
    match deliver s .br .s keep .brTo (BitVec.ofNat 512 s.me.link) 0 1 none with
    | .ok s => .ok (takeBranch s d)
    | o => o

/-- The checks of br.loop but for the loop stack (R114). -/
def loopOperandsOk (k : Core) (n x : Nat) : Bool :=
  !k.ui.active && decide (n < 2 ^ 32) && decide (x < 128) && decide (k.pc.bix.toNat + 1 ≤ x)
    && decide (x < k.bcnt) && decide (hdrKind k.bs.hdr < 3) && decide (k.pc.bix.toNat + 1 < k.bcnt)

def commitLoop (v : V512) (s : State) : Commit :=
  needPort s .brX fun xv =>
    let k := s.me
    let x := sval xv
    let n := sval v
    if !loopOperandsOk k n x then .raise .illopd none
    else if n = 0 then .ok (takeBranch s (k.afterIndex x))
    else if 4 ≤ k.loops.length then .raise .loopstk none
    else .ok (s.onMe fun k => { k with
      loops := ⟨BitVec.ofNat 32 n, k.pc.bix + 1, BitVec.ofNat 7 x, k.pc.seg⟩ :: k.loops })

/-- LPOP: in a handler ILLOPD comes before LOOPSTK (R114, R181; DESIGN CHOICE, log 16). -/
def commitLpop (_v : V512) (s : State) : Commit :=
  if s.me.ui.active then .raise .illopd none
  else match s.me.loops with
    | [] => .raise .loopstk none
    | _ :: r => .ok (s.onMe fun k => { k with loops := r })

def commitLcnt (keep : Bool) (v : V512) (s : State) : Commit :=
  match s.me.loops[sval v % 4]? with
  | none => .raise .loopstk none
  | some e => deliver s .br .s keep .brTo (BitVec.ofNat 512 e.count.toNat) 0 1 none

/-- LSET: in a handler ILLOPD comes before LOOPSTK (R114, R181; DESIGN CHOICE, log 16). -/
def commitLset (v : V512) (s : State) : Commit :=
  if s.me.ui.active ∨ 2 ^ 32 ≤ sval v then .raise .illopd none
  else match s.me.loops with
    | [] => .raise .loopstk none
    | e :: r => .ok (s.onMe fun k => { k with loops := { e with count := BitVec.ofNat 32 (sval v) } :: r })

/-- JMP (R111). -/
def execJmp (t : TForm) (m : Mv) (s : State) : Host.Outcome State Fault Refusal :=
  runMove (.jmp t m) (commitJmp t) s
/-- BZ: taken when br.x is 0 (R111). -/
def execBz (t : TForm) (m : Mv) (s : State) : Host.Outcome State Fault Refusal :=
  runMove (.bz t m) (commitBz t) s
/-- BNZ: taken when br.x is not 0 (R111). -/
def execBnz (t : TForm) (m : Mv) (s : State) : Host.Outcome State Fault Refusal :=
  runMove (.bnz t m) (commitBnz t) s
/-- CALL: a branch that delivers its link (R112). -/
def execCall (t : TForm) (m : Mv) (s : State) : Host.Outcome State Fault Refusal :=
  runMove (.call t m) (commitCall t m.k) s
/-- LOOP: pushes an entry, or skips the body when the count is 0 (R114, R116). -/
def execLoop (m : Mv) (s : State) : Host.Outcome State Fault Refusal := runMove (.loop m) commitLoop s
/-- LPOP (R114). -/
def execLpop (m : Mv) (s : State) : Host.Outcome State Fault Refusal := runMove (.lpop m) commitLpop s
/-- LCNT (R114). -/
def execLcnt (m : Mv) (s : State) : Host.Outcome State Fault Refusal := runMove (.lcnt m) (commitLcnt m.k) s
/-- LSET (R114). -/
def execLset (m : Mv) (s : State) : Host.Outcome State Fault Refusal := runMove (.lset m) commitLset s

/-! ### Unwinding and loop close (R115, R117), used at bundle end -/

/-- The body of an entry holds a bundle (R113). -/
def LoopEntry.holds (e : LoopEntry) (t : Target) : Bool :=
  e.seg == t.seg && decide (e.start ≤ t.bix) && decide (t.bix ≤ e.endB)

/-- A transfer pops entries from the innermost outward while their bodies do not hold the destination;
inside a user-level interrupt handler transfers do not unwind (R117, R181). -/
def unwind (t : Target) : List LoopEntry → List LoopEntry
  | [] => []
  | e :: r => if e.holds t then e :: r else unwind t r

end Sys2Proof.Machine
end

