-- ==== Sys2Proof/Machine/IntUnit.lean ====
section
/-! DEFINITION. The integer units ia and ib (R92, R93, R106 to R109). -/

namespace Sys2Proof.Machine

/-- Width W of an operation (R106). -/
def wdWidth : Wd → Nat | .w64 => 64 | .w32s => 32 | .w32z => 32
def swWidth : Sw → Nat | .sg64 => 64 | .sg32 => 32 | .un64 => 64 | .un32 => 32
/-- Signed operations (R107). -/
def swSigned : Sw → Bool | .sg64 => true | .sg32 => true | .un64 => false | .un32 => false
/-- The result extended to 64 bits (R106). -/
def wdOut (f : Wd) (r : Nat) : Nat := match f with | .w64 => r | .w32s => wrap (sx r 32) 64 | .w32z => r % 2 ^ 32
def swOut (f : Sw) (r : Nat) : Nat :=
  match f with
  | .sg64 => r | .un64 => r | .sg32 => wrap (sx r 32) 64 | .un32 => r % 2 ^ 32

/-- x Cc s over 64 bits (R91, R107). -/
def ccHolds (f : Cc) (x y : Nat) : Bool :=
  match f with
  | .eq => x == y
  | .ne => x != y
  | .lt => decide (sx x 64 < sx y 64)
  | .ge => decide (sx y 64 ≤ sx x 64)
  | .ltu => decide (x < y)
  | .geu => decide (y ≤ x)
  | .le => decide (sx x 64 ≤ sx y 64)
  | .gt => decide (sx y 64 < sx x 64)
  | .leu => decide (x ≤ y)
  | .gtu => decide (y < x)

/-- Quotient of W-bit operands (R107). -/
def intDiv (g : Bool) (w x y : Nat) : Nat :=
  if y = 0 then 2 ^ w - 1
  else if g then wrap ((sx x w).tdiv (sx y w)) w
  else x / y

/-- Remainder of W-bit operands (R107). -/
def intRem (g : Bool) (w x y : Nat) : Nat :=
  if y = 0 then x
  else if g then wrap (sx x w - sx y w * (sx x w).tdiv (sx y w)) w
  else x % y

/-- Trailing zeros of y in w bits (R107). -/
def trailingZeros (y w : Nat) : Nat := ((upto w).find? fun i => y.testBit i).getD w

/-- One bits of y in w bits (R107). -/
def popCount (y w : Nat) : Nat := ((upto w).filter fun i => y.testBit i).length

/-- The bit field of R108. -/
def extField (g : Bool) (w x s : Nat) : Nat :=
  let pos := bits s 6 0
  let wid := Nat.min (bits s 14 8) w
  if wid = 0 ∨ w ≤ pos then 0
  else
    let f := (x >>> pos) % 2 ^ wid
    if g then wrap (sx f wid) w else f

def intUnit : IntUnit → FUnit | .ia => .ia | .ib => .ib
def intX : IntUnit → Port | .ia => .iaX | .ib => .ibX
def intTo : IntUnit → Port | .ia => .iaTo | .ib => .ibTo

/-- Delivers an integer result after its latency (R106, R109). -/
def intDeliver (s : State) (u : IntUnit) (keep : Bool) (lat r : Nat) : Commit :=
  deliver s (intUnit u) .s keep (intTo u) (BitVec.ofNat 512 r) 0 lat (some (.intResultDelivery s.cur u))

/-- Latency of a divide: 12 or 20 control cycles (R109). -/
def divLatency (f : Sw) : Nat := if swWidth f = 32 then 12 else 20

/-- The divider of a unit is busy (R109). -/
def dividerBusy (k : Core) (u : IntUnit) : Bool := k.fl.any fun f => f.unit == intUnit u && f.divider

/-- A divide or remainder: it waits for the unit's divider and occupies it (R109). -/
def divDeliver (s : State) (u : IntUnit) (f : Sw) (keep : Bool) (r : Nat) : Commit :=
  if dividerBusy s.me u then .freeze .reg
  else match intDeliver s u keep (divLatency f) r with
    | .ok t => .ok (t.onMe fun k => { k with
        fl := k.fl.map fun g => if g.id + 1 = t.nextId then { g with divider := true } else g })
    | o => o

/-! ### Results of the operations (R107, R108): x and y are the operands of W bits -/

/-- ADD: sum modulo 2^W (R107). -/
def resAdd (f : Wd) (x0 y0 : Nat) : Nat :=
  let w := wdWidth f
  let x := x0 % 2 ^ w
  let y := y0 % 2 ^ w
  wdOut f ((x + y) % 2 ^ w)

/-- SUB: difference modulo 2^W (R107). -/
def resSub (f : Wd) (x0 y0 : Nat) : Nat :=
  let w := wdWidth f
  let x := x0 % 2 ^ w
  let y := y0 % 2 ^ w
  wdOut f ((x + 2 ^ w - y) % 2 ^ w)

/-- MUL: low half of the product (R107). -/
def resMul (f : Wd) (x0 y0 : Nat) : Nat :=
  let w := wdWidth f
  let x := x0 % 2 ^ w
  let y := y0 % 2 ^ w
  wdOut f (x * y % 2 ^ w)

/-- MULH: high half of the product (R107). -/
def resMulh (f : Sw) (x0 y0 : Nat) : Nat :=
  let w := swWidth f
  let g := swSigned f
  let x := x0 % 2 ^ w
  let y := y0 % 2 ^ w
  swOut f (if g then wrap (sx x w * sx y w / ((2 ^ w : Nat) : Int)) w else x * y / 2 ^ w)

/-- DIV: quotient toward zero (R107). -/
def resDiv (f : Sw) (x0 y0 : Nat) : Nat :=
  let w := swWidth f
  let g := swSigned f
  let x := x0 % 2 ^ w
  let y := y0 % 2 ^ w
  swOut f (intDiv g w x y)

/-- REM: remainder (R107). -/
def resRem (f : Sw) (x0 y0 : Nat) : Nat :=
  let w := swWidth f
  let g := swSigned f
  let x := x0 % 2 ^ w
  let y := y0 % 2 ^ w
  swOut f (intRem g w x y)

/-- AND: bitwise and (R107). -/
def resAnd (f : Wd) (x0 y0 : Nat) : Nat :=
  let w := wdWidth f
  let x := x0 % 2 ^ w
  let y := y0 % 2 ^ w
  wdOut f (x &&& y)

/-- OR: bitwise or (R107). -/
def resOr (f : Wd) (x0 y0 : Nat) : Nat :=
  let w := wdWidth f
  let x := x0 % 2 ^ w
  let y := y0 % 2 ^ w
  wdOut f (x ||| y)

/-- XOR: bitwise exclusive or (R107). -/
def resXor (f : Wd) (x0 y0 : Nat) : Nat :=
  let w := wdWidth f
  let x := x0 % 2 ^ w
  let y := y0 % 2 ^ w
  wdOut f (x ^^^ y)

/-- ANDN: x and not s (R107). -/
def resAndn (f : Wd) (x0 y0 : Nat) : Nat :=
  let w := wdWidth f
  let x := x0 % 2 ^ w
  let y := y0 % 2 ^ w
  wdOut f (x &&& (2 ^ w - 1 - y))

/-- SHL: shift left by s modulo the width (R107). -/
def resShl (f : Wd) (x0 y0 : Nat) : Nat :=
  let w := wdWidth f
  let x := x0 % 2 ^ w
  let y := y0 % 2 ^ w
  wdOut f (x * 2 ^ (y % w) % 2 ^ w)

/-- SHR: logical right shift (R107). -/
def resShr (f : Wd) (x0 y0 : Nat) : Nat :=
  let w := wdWidth f
  let x := x0 % 2 ^ w
  let y := y0 % 2 ^ w
  wdOut f (x / 2 ^ (y % w))

/-- SAR: arithmetic right shift (R107). -/
def resSar (f : Wd) (x0 y0 : Nat) : Nat :=
  let w := wdWidth f
  let x := x0 % 2 ^ w
  let y := y0 % 2 ^ w
  wdOut f (wrap (sx x w / ((2 ^ (y % w) : Nat) : Int)) w)

/-- ROL: rotation left (R107). -/
def resRol (f : Wd) (x0 y0 : Nat) : Nat :=
  let w := wdWidth f
  let x := x0 % 2 ^ w
  let y := y0 % 2 ^ w
  wdOut f ((x * 2 ^ (y % w) + x / 2 ^ (w - y % w)) % 2 ^ w)

/-- MIN: the lesser (R107). -/
def resMin (f : Sw) (x0 y0 : Nat) : Nat :=
  let w := swWidth f
  let g := swSigned f
  let x := x0 % 2 ^ w
  let y := y0 % 2 ^ w
  swOut f (if (if g then decide (sx x w ≤ sx y w) else decide (x ≤ y)) then x else y)

/-- MAX: the greater (R107). -/
def resMax (f : Sw) (x0 y0 : Nat) : Nat :=
  let w := swWidth f
  let g := swSigned f
  let x := x0 % 2 ^ w
  let y := y0 % 2 ^ w
  swOut f (if (if g then decide (sx x w ≤ sx y w) else decide (x ≤ y)) then y else x)

/-- CMP: comparison over 64 bits (R107). -/
def resCmp (f : Cc) (x y : Nat) : Nat := boolCode (ccHolds f x y)

/-- CLZ: leading zeros of s (R107). -/
def resClz (f : Wd) (y0 : Nat) : Nat :=
  let w := wdWidth f
  let y := y0 % 2 ^ w
  wdOut f (w - bitLen y)

/-- CTZ: trailing zeros of s (R107). -/
def resCtz (f : Wd) (y0 : Nat) : Nat :=
  let w := wdWidth f
  let y := y0 % 2 ^ w
  wdOut f (trailingZeros y w)

/-- POPC: one bits of s (R107). -/
def resPopc (f : Wd) (y0 : Nat) : Nat :=
  let w := wdWidth f
  let y := y0 % 2 ^ w
  wdOut f (popCount y w)

/-- EXT: bit field of x (R108) (R107). -/
def resExt (f : Sw) (x0 y0 : Nat) : Nat :=
  let w := swWidth f
  let g := swSigned f
  let x := x0 % 2 ^ w
  swOut f (extField g w x y0)

/-- BSWAP: byte order reversed (R107). -/
def resBswap (f : Wd) (y0 : Nat) : Nat :=
  let w := wdWidth f
  let y := y0 % 2 ^ w
  wdOut f (ofBytes (toBytes (w / 8) y).reverse)

/-- ADDS: saturating sum (R107). -/
def resAdds (f : Sw) (x0 y0 : Nat) : Nat :=
  let w := swWidth f
  let g := swSigned f
  let x := x0 % 2 ^ w
  let y := y0 % 2 ^ w
  swOut f (if g then wrap (sat (sx x w + sx y w) (-((2 ^ (w - 1) : Nat) : Int)) ((2 ^ (w - 1) : Nat) - 1)) w
    else (sat ((x : Int) + y) 0 ((2 ^ w : Nat) - 1)).toNat)

/-- SUBS: saturating difference (R107). -/
def resSubs (f : Sw) (x0 y0 : Nat) : Nat :=
  let w := swWidth f
  let g := swSigned f
  let x := x0 % 2 ^ w
  let y := y0 % 2 ^ w
  swOut f (if g then wrap (sat (sx x w - sx y w) (-((2 ^ (w - 1) : Nat) : Int)) ((2 ^ (w - 1) : Nat) - 1)) w
    else (sat ((x : Int) - y) 0 ((2 ^ w : Nat) - 1)).toNat)

/-- PASS: s itself (R107). -/
def resPass (f : Wd) (y0 : Nat) : Nat :=
  let w := wdWidth f
  let y := y0 % 2 ^ w
  wdOut f (y)

/-! ### The triggers -/

def commitAdd (u : IntUnit) (f : Wd) (keep : Bool) (v : V512) (s : State) : Commit :=
  needPort s (intX u) fun x => intDeliver s u keep 1 (resAdd f (sval x) (sval v))

/-- ADD (R107): sum modulo 2^W, on ia or ib. -/
def execAdd (u : IntUnit) (f : Wd) (m : Mv) (s : State) : Host.Outcome State Fault Refusal :=
  runMove (.add u f m) (commitAdd u f m.k) s

def commitSub (u : IntUnit) (f : Wd) (keep : Bool) (v : V512) (s : State) : Commit :=
  needPort s (intX u) fun x => intDeliver s u keep 1 (resSub f (sval x) (sval v))

/-- SUB (R107): difference modulo 2^W, on ia or ib. -/
def execSub (u : IntUnit) (f : Wd) (m : Mv) (s : State) : Host.Outcome State Fault Refusal :=
  runMove (.sub u f m) (commitSub u f m.k) s

def commitMul (u : IntUnit) (f : Wd) (keep : Bool) (v : V512) (s : State) : Commit :=
  needPort s (intX u) fun x => intDeliver s u keep 3 (resMul f (sval x) (sval v))

/-- MUL (R107): low half of the product, on ia or ib. -/
def execMul (u : IntUnit) (f : Wd) (m : Mv) (s : State) : Host.Outcome State Fault Refusal :=
  runMove (.mul u f m) (commitMul u f m.k) s

def commitMulh (u : IntUnit) (f : Sw) (keep : Bool) (v : V512) (s : State) : Commit :=
  needPort s (intX u) fun x => intDeliver s u keep 3 (resMulh f (sval x) (sval v))

/-- MULH (R107): high half of the product, on ia or ib. -/
def execMulh (u : IntUnit) (f : Sw) (m : Mv) (s : State) : Host.Outcome State Fault Refusal :=
  runMove (.mulh u f m) (commitMulh u f m.k) s

def commitDiv (u : IntUnit) (f : Sw) (keep : Bool) (v : V512) (s : State) : Commit :=
  needPort s (intX u) fun x => divDeliver s u f keep (resDiv f (sval x) (sval v))

/-- DIV (R107): quotient toward zero, on ia or ib. -/
def execDiv (u : IntUnit) (f : Sw) (m : Mv) (s : State) : Host.Outcome State Fault Refusal :=
  runMove (.div u f m) (commitDiv u f m.k) s

def commitRem (u : IntUnit) (f : Sw) (keep : Bool) (v : V512) (s : State) : Commit :=
  needPort s (intX u) fun x => divDeliver s u f keep (resRem f (sval x) (sval v))

/-- REM (R107): remainder, on ia or ib. -/
def execRem (u : IntUnit) (f : Sw) (m : Mv) (s : State) : Host.Outcome State Fault Refusal :=
  runMove (.rem u f m) (commitRem u f m.k) s

def commitAnd (u : IntUnit) (f : Wd) (keep : Bool) (v : V512) (s : State) : Commit :=
  needPort s (intX u) fun x => intDeliver s u keep 1 (resAnd f (sval x) (sval v))

/-- AND (R107): bitwise and, on ia or ib. -/
def execAnd (u : IntUnit) (f : Wd) (m : Mv) (s : State) : Host.Outcome State Fault Refusal :=
  runMove (.and u f m) (commitAnd u f m.k) s

def commitOr (u : IntUnit) (f : Wd) (keep : Bool) (v : V512) (s : State) : Commit :=
  needPort s (intX u) fun x => intDeliver s u keep 1 (resOr f (sval x) (sval v))

/-- OR (R107): bitwise or, on ia or ib. -/
def execOr (u : IntUnit) (f : Wd) (m : Mv) (s : State) : Host.Outcome State Fault Refusal :=
  runMove (.or u f m) (commitOr u f m.k) s

def commitXor (u : IntUnit) (f : Wd) (keep : Bool) (v : V512) (s : State) : Commit :=
  needPort s (intX u) fun x => intDeliver s u keep 1 (resXor f (sval x) (sval v))

/-- XOR (R107): bitwise exclusive or, on ia or ib. -/
def execXor (u : IntUnit) (f : Wd) (m : Mv) (s : State) : Host.Outcome State Fault Refusal :=
  runMove (.xor u f m) (commitXor u f m.k) s

def commitAndn (u : IntUnit) (f : Wd) (keep : Bool) (v : V512) (s : State) : Commit :=
  needPort s (intX u) fun x => intDeliver s u keep 1 (resAndn f (sval x) (sval v))

/-- ANDN (R107): x and not s, on ia or ib. -/
def execAndn (u : IntUnit) (f : Wd) (m : Mv) (s : State) : Host.Outcome State Fault Refusal :=
  runMove (.andn u f m) (commitAndn u f m.k) s

def commitShl (u : IntUnit) (f : Wd) (keep : Bool) (v : V512) (s : State) : Commit :=
  needPort s (intX u) fun x => intDeliver s u keep 1 (resShl f (sval x) (sval v))

/-- SHL (R107): shift left by s modulo the width, on ia or ib. -/
def execShl (u : IntUnit) (f : Wd) (m : Mv) (s : State) : Host.Outcome State Fault Refusal :=
  runMove (.shl u f m) (commitShl u f m.k) s

def commitShr (u : IntUnit) (f : Wd) (keep : Bool) (v : V512) (s : State) : Commit :=
  needPort s (intX u) fun x => intDeliver s u keep 1 (resShr f (sval x) (sval v))

/-- SHR (R107): logical right shift, on ia or ib. -/
def execShr (u : IntUnit) (f : Wd) (m : Mv) (s : State) : Host.Outcome State Fault Refusal :=
  runMove (.shr u f m) (commitShr u f m.k) s

def commitSar (u : IntUnit) (f : Wd) (keep : Bool) (v : V512) (s : State) : Commit :=
  needPort s (intX u) fun x => intDeliver s u keep 1 (resSar f (sval x) (sval v))

/-- SAR (R107): arithmetic right shift, on ia or ib. -/
def execSar (u : IntUnit) (f : Wd) (m : Mv) (s : State) : Host.Outcome State Fault Refusal :=
  runMove (.sar u f m) (commitSar u f m.k) s

def commitRol (u : IntUnit) (f : Wd) (keep : Bool) (v : V512) (s : State) : Commit :=
  needPort s (intX u) fun x => intDeliver s u keep 1 (resRol f (sval x) (sval v))

/-- ROL (R107): rotation left, on ia or ib. -/
def execRol (u : IntUnit) (f : Wd) (m : Mv) (s : State) : Host.Outcome State Fault Refusal :=
  runMove (.rol u f m) (commitRol u f m.k) s

def commitMin (u : IntUnit) (f : Sw) (keep : Bool) (v : V512) (s : State) : Commit :=
  needPort s (intX u) fun x => intDeliver s u keep 1 (resMin f (sval x) (sval v))

/-- MIN (R107): the lesser, on ia or ib. -/
def execMin (u : IntUnit) (f : Sw) (m : Mv) (s : State) : Host.Outcome State Fault Refusal :=
  runMove (.min u f m) (commitMin u f m.k) s

def commitMax (u : IntUnit) (f : Sw) (keep : Bool) (v : V512) (s : State) : Commit :=
  needPort s (intX u) fun x => intDeliver s u keep 1 (resMax f (sval x) (sval v))

/-- MAX (R107): the greater, on ia or ib. -/
def execMax (u : IntUnit) (f : Sw) (m : Mv) (s : State) : Host.Outcome State Fault Refusal :=
  runMove (.max u f m) (commitMax u f m.k) s

def commitCmp (u : IntUnit) (f : Cc) (keep : Bool) (v : V512) (s : State) : Commit :=
  needPort s (intX u) fun x => intDeliver s u keep 1 (resCmp f (sval x) (sval v))

/-- CMP (R107): comparison over 64 bits, on ia or ib. -/
def execCmp (u : IntUnit) (f : Cc) (m : Mv) (s : State) : Host.Outcome State Fault Refusal :=
  runMove (.cmp u f m) (commitCmp u f m.k) s

def commitClz (u : IntUnit) (f : Wd) (keep : Bool) (v : V512) (s : State) : Commit :=
  intDeliver s u keep 1 (resClz f (sval v))

/-- CLZ (R107): leading zeros of s, on ia or ib. -/
def execClz (u : IntUnit) (f : Wd) (m : Mv) (s : State) : Host.Outcome State Fault Refusal :=
  runMove (.clz u f m) (commitClz u f m.k) s

def commitCtz (u : IntUnit) (f : Wd) (keep : Bool) (v : V512) (s : State) : Commit :=
  intDeliver s u keep 1 (resCtz f (sval v))

/-- CTZ (R107): trailing zeros of s, on ia or ib. -/
def execCtz (u : IntUnit) (f : Wd) (m : Mv) (s : State) : Host.Outcome State Fault Refusal :=
  runMove (.ctz u f m) (commitCtz u f m.k) s

def commitPopc (u : IntUnit) (f : Wd) (keep : Bool) (v : V512) (s : State) : Commit :=
  intDeliver s u keep 1 (resPopc f (sval v))

/-- POPC (R107): one bits of s, on ia or ib. -/
def execPopc (u : IntUnit) (f : Wd) (m : Mv) (s : State) : Host.Outcome State Fault Refusal :=
  runMove (.popc u f m) (commitPopc u f m.k) s

def commitExt (u : IntUnit) (f : Sw) (keep : Bool) (v : V512) (s : State) : Commit :=
  needPort s (intX u) fun x => intDeliver s u keep 1 (resExt f (sval x) (sval v))

/-- EXT (R107): bit field of x (R108), on ia or ib. -/
def execExt (u : IntUnit) (f : Sw) (m : Mv) (s : State) : Host.Outcome State Fault Refusal :=
  runMove (.ext u f m) (commitExt u f m.k) s

def commitBswap (u : IntUnit) (f : Wd) (keep : Bool) (v : V512) (s : State) : Commit :=
  intDeliver s u keep 1 (resBswap f (sval v))

/-- BSWAP (R107): byte order reversed, on ia or ib. -/
def execBswap (u : IntUnit) (f : Wd) (m : Mv) (s : State) : Host.Outcome State Fault Refusal :=
  runMove (.bswap u f m) (commitBswap u f m.k) s

def commitAdds (u : IntUnit) (f : Sw) (keep : Bool) (v : V512) (s : State) : Commit :=
  needPort s (intX u) fun x => intDeliver s u keep 1 (resAdds f (sval x) (sval v))

/-- ADDS (R107): saturating sum, on ia or ib. -/
def execAdds (u : IntUnit) (f : Sw) (m : Mv) (s : State) : Host.Outcome State Fault Refusal :=
  runMove (.adds u f m) (commitAdds u f m.k) s

def commitSubs (u : IntUnit) (f : Sw) (keep : Bool) (v : V512) (s : State) : Commit :=
  needPort s (intX u) fun x => intDeliver s u keep 1 (resSubs f (sval x) (sval v))

/-- SUBS (R107): saturating difference, on ia or ib. -/
def execSubs (u : IntUnit) (f : Sw) (m : Mv) (s : State) : Host.Outcome State Fault Refusal :=
  runMove (.subs u f m) (commitSubs u f m.k) s

def commitPass (u : IntUnit) (f : Wd) (keep : Bool) (v : V512) (s : State) : Commit :=
  intDeliver s u keep 1 (resPass f (sval v))

/-- PASS (R107): s itself, on ia or ib. -/
def execPass (u : IntUnit) (f : Wd) (m : Mv) (s : State) : Host.Outcome State Fault Refusal :=
  runMove (.pass u f m) (commitPass u f m.k) s

/-- A unit delivers: its results due by now reach latch and register (R109). -/
def execIntResultDelivery (c : CoreId) (u : IntUnit) (s : State) : Host.Outcome State Fault Refusal :=
  .next (s.onCore c fun k => k.landDue s.now fun w => w == intUnit u)

end Sys2Proof.Machine
end

