-- ==== Sys2Proof/Machine/Sched.lean ====
section
/-! DEFINITION. Table ticks, node entries, task queues, the timetable's releases, the Lark, pick-ups, slices
and context switches (R10 to R16, R119, R120, R247 to R251, R275 to R278, R300 to R308). -/

namespace Sys2Proof.Machine

/-! ### Table ticks (R300) -/

/-- The tick of timer value t, from boundary b of tick n, over the changes of tick length. -/
def tickGo : List (Nat × Nat) → Int → Int → Int → Int → Int
  | [], len, b, n, t => n + (t - b) / len
  | (tc, old) :: r, len, b, n, t =>
    if (tc : Int) ≤ b then tickGo r len b n t
    else
      let d := ((tc : Int) - b + old - 1) / old
      if t < b + d * old then n + (t - b) / old else tickGo r len (b + d * old) (n + d) t

/-- The timer value at which tick k begins. -/
def tickStart : List (Nat × Nat) → Int → Int → Int → Int → Int
  | [], len, b, n, k => b + (k - n) * len
  | (tc, old) :: r, len, b, n, k =>
    if (tc : Int) ≤ b then tickStart r len b n k
    else
      let d := ((tc : Int) - b + old - 1) / old
      if k < n + d then b + (k - n) * old else tickStart r len (b + d * old) (n + d) k

/-- The table tick of the frame of origin o at a timer value, unbounded. -/
def State.tickAt (s : State) (o t : Nat) : Int := tickGo s.die.ttHist s.die.ttlen o 0 t

/-- The table tick of the frame of origin o now, unbounded. -/
def State.tickOf (s : State) (o : Nat) : Int := s.tickAt o s.gt

/-- The table tick now, modulo 2^32. -/
def State.tick (s : State) (o : Nat) : Nat := wrap (s.tickOf o) 32

/-- The time at which the global timer reaches a value (R373). -/
def State.whenGt (s : State) (ns : Int) : Nat :=
  let t := s.die.timer
  let d := ns - t.base
  if d ≤ 0 then s.now
  else
    let r : Int := 100000000 + t.trim
    Nat.max s.now (t.since + ((d * 2700000000 + r - 1) / r).toNat)

/-- The tick nearest to now that is congruent to a 32-bit tick. -/
def State.nearTick (s : State) (o t : Nat) : Int := s.tickOf o + sx (t + 2 ^ 32 - s.tick o) 32

/-- The time at which the tick nearest to now congruent to t begins. -/
def State.whenTick (s : State) (o t : Nat) : Nat :=
  s.whenGt (tickStart s.die.ttHist s.die.ttlen o 0 (s.nearTick o t))

/-- The absolute deadline of a deadline tick, none for no deadline (R302). -/
def State.absDeadline (s : State) (o dln : Nat) : Option Int :=
  if dln = 2 ^ 32 - 1 then none else some (o + s.die.ttlen * s.nearTick o dln)

/-! ### Records (R9) -/

def Record.seg (r : Record) : Nat := bits r.w0.toNat 63 16 * 256
def Record.bix (r : Record) : Nat := bits r.w0.toNat 15 8
def Record.flg (r : Record) : Nat := bits r.w0.toNat 7 0
def Record.inst (r : Record) : Nat := bits r.w1.toNat 63 40
def Record.node (r : Record) : Nat := bits r.w1.toNat 39 28
def Record.tmpl (r : Record) : Nat := bits r.w1.toNat 27 16
def Record.strm (r : Record) : Nat := bits r.w1.toNat 15 10
def Record.ctx (r : Record) : CtxId := BitVec.ofNat 4 (bits r.w1.toNat 9 6)
def Record.rung (r : Record) : Nat := bits r.w1.toNat 5 4
def Record.rel (r : Record) : Nat := bits r.w2.toNat 63 32
def Record.dln (r : Record) : Nat := bits r.w2.toNat 31 0
def Record.seq (r : Record) : Nat := bits r.w3.toNat 63 48

/-- The record as 64 little-endian bytes. -/
def Record.toNat (r : Record) : Nat :=
  packNat 64 [r.w0.toNat, r.w1.toNat, r.w2.toNat, r.w3.toNat, r.cv0.toNat, r.cv1.toNat, r.cv2.toNat, r.cv3.toNat]

def Record.ofNat (v : Nat) : Record :=
  let w (i : Nat) : W64 := BitVec.ofNat 64 (v / 2 ^ (64 * i))
  ⟨w 0, w 1, w 2, w 3, w 4, w 5, w 6, w 7⟩

def Record.setRel (r : Record) (t : Nat) : Record :=
  { r with w2 := BitVec.ofNat 64 (setBits r.w2.toNat 32 32 t) }

def Record.setFlg (r : Record) (f : Nat) : Record := { r with w0 := BitVec.ofNat 64 (setBits r.w0.toNat 0 8 f) }

def Record.setNode (r : Record) (n : Nat) : Record := { r with w1 := BitVec.ofNat 64 (setBits r.w1.toNat 28 12 n) }

/-- SEQ and WOBJ set (R11). -/
def Record.setW3 (r : Record) (seq wobj : Nat) : Record :=
  { r with w3 := BitVec.ofNat 64 (seq * 2 ^ 48 + wobj % 2 ^ 48) }

/-- The place a record resumes at, and its resume point set (R10). -/
def Record.place (r : Record) : Target := ⟨BitVec.ofNat 56 r.seg, BitVec.ofNat 7 r.bix⟩
def Record.setPlace (r : Record) (t : Target) (flg : Nat) : Record :=
  { r with w0 := BitVec.ofNat 64 (t.seg.toNat / 256 * 2 ^ 16 + t.bix.toNat * 2 ^ 8 + flg) }

/-- A context's next SEQ (R11). -/
def State.nextSeq (s : State) (x : CtxId) : Nat × State :=
  ((s.ctx x).seq.toNat, s.onCtx x fun c => { c with seq := c.seq + 1 })

/-! ### Templates (R119, R120, R301), read afresh from the directory (log 9) -/

/-- NCNT of a template. -/
def State.ncnt (s : State) (x : CtxId) (tmpl : Nat) : Nat :=
  s.mem.read ((s.ctx x).tdir.toNat + 16 * tmpl + 8) 8 % 2 ^ 13

/-- A node entry's 128 bytes. -/
def State.nodeEntry (s : State) (x : CtxId) (tmpl node : Nat) : Nat :=
  s.mem.read (s.mem.read ((s.ctx x).tdir.toNat + 16 * tmpl) 8 % 2 ^ 56 + 128 * node) 128

def neNarg (e : Nat) : Nat := bits e 2 0
def neJen (e : Nat) : Bool := bit e 3
def neJctr (e : Nat) : Nat := bits e 17 4
def neRoff (e : Nat) : Nat := bits e (64 + 23) 64
def neDoff (e : Nat) : Nat := bits e (64 + 47) (64 + 24)
def neBud (e : Nat) : Nat := bits e (64 + 63) (64 + 48)

/-- The address of argument k of instance i; none is ARGRANGE (R120). -/
def argAddr (e i k : Nat) : Option Nat :=
  if 5 < k ∨ neNarg e ≤ k ∨ 6 < neNarg e then none
  else
    let base := getBytes e (16 + 16 * k) 8
    let w := getBytes e (24 + 16 * k) 8
    let d := bits w 63 40
    let s1 := sx (bits w 35 18) 18
    let s0 := sx (bits w 17 0) 18
    let off : Int := if d = 0 then i * s0 else (i / d : Nat) * s1 + (i % d : Nat) * s0
    let a : Int := base + off * (2 ^ bits w 39 36 : Nat)
    if 2 ^ 56 ≤ base ∨ a < 0 ∨ (2 ^ 56 : Nat) ≤ a then none else some a.toNat

/-! ### Launches by identifier -/

def State.setLaunch (s : State) (l : Launch) : State :=
  { s with launches := s.launches.map fun x => if x.id = l.id then l else x }

def State.onLaunch (s : State) (id : Nat) (f : Launch → Launch) : State :=
  { s with launches := s.launches.map fun x => if x.id = id then f x else x }

/-- The node of a frame, if it has one. -/
def Launch.nodeAcc (l : Launch) (tmpl node : Nat) : Option NodeAcc :=
  l.nodes.find? fun n => n.tmpl == tmpl && n.node == node

/-- A node of a frame changed, made when absent. -/
def Launch.onNode (l : Launch) (tmpl node : Nat) (f : NodeAcc → NodeAcc) : Launch :=
  match l.nodeAcc tmpl node with
  | some _ => { l with nodes := l.nodes.map fun n => if n.tmpl = tmpl ∧ n.node = node then f n else n }
  | none => { l with nodes := l.nodes ++ [f ⟨tmpl, node, none, 0, false, false, 0, 0, 0⟩] }

/-- One more live record of a frame: its node is unfinished, again so where its earlier records have all ended (R302,
R304). -/
def State.countRecord (s : State) (id tmpl node : Nat) : State :=
  s.onLaunch id fun l => { l.onNode tmpl node (fun n => { n with live := n.live + 1, finished := false }) with
    live := l.live + 1 }

/-! ### The quality ladder's moves (R306, R310) -/

/-- A rung change, with its event when the rung changed. -/
def State.moveRung (s : State) (n new reason fseq : Nat) : State :=
  match s.stream n with
  | none => s
  | some t =>
    let s := s.setStream n (some { t with rung := new, ontime := 0 })
    if t.rung = new then s
    else s.postEvent t.ctx (if reason = 3 then 0x82 else 0x81) 0
      (n + 2 ^ 8 * (t.rung + 4 * new) + 2 ^ 16 * reason + 2 ^ 32 * fseq)

/-- A frame drops its stream's rung, once (R310). -/
def State.dropRung (s : State) (l : Launch) (reason : Nat) : State :=
  match s.stream l.strm.toNat with
  | none => s
  | some t => (s.moveRung l.strm.toNat (Nat.min (t.rung + 1) (t.rungs.length - 1)) reason l.fseq.toNat).onLaunch l.id
      fun l => { l with dropped := true }

/-- A frame that has completed moves its stream's ladder: late it drops, else it is on time (R310). -/
def State.countFrame (s : State) (n : Nat) (fseq : BitVec 32) (late : Bool) : State :=
  match s.stream n with
  | none => s
  | some t =>
    if late then s.moveRung n (Nat.min (t.rung + 1) (t.rungs.length - 1)) 1 fseq.toNat
    else
      let k := Nat.min (t.ontime + 1) 255
      if t.climb ≤ k ∧ 0 < t.rung then s.moveRung n (t.rung - 1) 3 fseq.toNat
      else s.setStream n (some { t with ontime := k })

/-- A frame of the stream has its records, and has not completed. -/
def Launch.frameOf (l : Launch) (n : Nat) : Bool := l.sv && l.strm.toNat == n && (l.step == .live || l.step == .empty)

/-- The last instant of the tick of an origin. -/
def State.tickEnds (s : State) (o : Nat) : Nat := s.whenTick o (wrap (s.tickOf o + 1) 32) - 1

/-- The completed frames of a stream move its ladder, in FSEQ order: one waits in its tick only while a frame with an
earlier FSEQ may still complete in it (R310, log 22). -/
def State.settleLadder (s : State) (n : Nat) (all : Bool) : State :=
  match s.stream n with
  | none => s
  | some t =>
    let o := t.origin.toNat
    let ripe (e : Int × BitVec 32 × Bool) : Bool :=
      all || decide (e.1 < s.tickOf o) || decide (s.tickEnds o ≤ s.now)
        || !(s.launches.any fun l => l.frameOf n && serialLt 32 l.fseq.toNat e.2.1.toNat)
    let done := t.ladder.takeWhile ripe
    let rest := t.ladder.drop done.length
    done.foldl (fun s e => s.countFrame n e.2.1 e.2.2) (s.setStream n (some { t with ladder := rest }))

/-- Every stream's ladder moves for the frames that wait for nothing more. -/
def State.settleLadders (s : State) : State :=
  s.streams.foldl (fun s e => match e.2 with
    | some t => if t.ladder.isEmpty then s else s.settleLadder e.1 false
    | none => s) s

/-- A completed frame among those whose ladder moves are to come: by tick, then in FSEQ order (R310, log 22). -/
def ladderInsert (e : Int × BitVec 32 × Bool) : List (Int × BitVec 32 × Bool) → List (Int × BitVec 32 × Bool)
  | [] => [e]
  | x :: r =>
    if e.1 < x.1 ∨ (e.1 = x.1 ∧ serialLt 32 e.2.1.toNat x.2.1.toNat) then e :: x :: r else x :: ladderInsert e r

/-! ### The task queue -/

/-- A core no strand runs on and no gang holds. -/
def Core.isFree (k : Core) : Bool := k.phase == .idle && k.gangHold.isNone

def clusterCores (k : ClusterId) : List CoreId := (upto 8).map (coreOf k)

/-- The Lark is asked for the free cores of a cluster; a cluster in retention wakes first (R286, R308). -/
def State.poke (s : State) (k : ClusterId) : State :=
  if (s.cluster k).retained then s.schedule (s.now + 54000) (.retentionWake k false)
  else (clusterCores k).foldl (fun s c =>
    if (s.core c).isFree then s.schedule (Nat.max s.now (s.core c).time) (.pickup c) else s) s

/-- The tick at which a record of a frame is due: REL + STALL (R303). -/
def QRec.dueTick (q : QRec) (l : Launch) : Nat := (q.rcd.rel + l.stall) % 2 ^ 32

/-- A record enters a cluster's queue (R122, R302, R303). -/
def State.enqueue (s : State) (k : ClusterId) (q : QRec) : State :=
  let l := q.launch.bind s.launch
  let q : QRec := if l.isNone && q.released.isNone then { q with released := some s.gt } else q
  let s := s.onCluster k fun c => { c with queue := c.queue ++ [q] }
  match q.released, l with
  | none, some l => s.schedule (s.whenTick l.origin (q.dueTick l)) (.recordRelease k)
  | _, _ => s.poke k

/-- A past-due unfinished node of the frame holds a record (R304). -/
def heldBack (l : Launch) (q : QRec) (t : Nat) : Bool :=
  l.nodes.any fun n =>
    (n.tmpl != q.rcd.tmpl || n.node != q.rcd.node) && decide (0 < n.live) &&
    match n.due with
    | some d => !serialLt 32 t d && !serialLt 32 (q.dueTick l) d
    | none => false

/-- The first release of a node: its due tick, and the ladder at the end node (R304, R310). -/
def State.nodeReleased (s : State) (id : Nat) (tmpl node : Nat) : State :=
  match s.launch id with
  | none => s
  | some l =>
    match l.nodeAcc tmpl node with
    | none => s
    | some n =>
      if n.released then s
      else
        let e := s.nodeEntry l.ctx tmpl node
        let t := s.tick l.origin
        let due := if neBud e = 65535 then none else some ((l.base.toNat + neRoff e + neBud e + l.stall) % 2 ^ 32)
        let s := s.setLaunch (l.onNode tmpl node fun n => { n with released := true, due := due })
        match (if l.sv && !l.dropped then s.stream l.strm.toNat else none) with
        | none => s
        | some st =>
          let last := match st.rungs[l.rung]? with | some r => node == r.enode && tmpl == r.tmpl | none => false
          if last = true ∧ neBud e ≠ 65535
              ∧ sx ((l.base.toNat + st.dloff.toNat) + 2 ^ 33 - (t + neBud e)) 32 < 0
          then s.dropRung l 2 else s

/-- One record of a queue released when it is due and not held (R303, R304). -/
def State.releaseOne (s : State) (k : ClusterId) (q : QRec) : State :=
  match q.released, q.launch.bind s.launch with
  | none, some l =>
    let t := s.tick l.origin
    let d := q.dueTick l
    if serialLt 32 t d then s.schedule (s.whenTick l.origin d) (.recordRelease k)
    else if heldBack l q t then s
    else
      let q' : QRec := { q with released := some s.gt, rcd := q.rcd.setRel d }
      let s := s.onCluster k fun c => { c with queue := c.queue.map fun x => if x.uid = q.uid then q' else x }
      s.nodeReleased l.id q.rcd.tmpl q.rcd.node
  | _, _ => s

/-- The records of a cluster's queue that are due are released, after the ladders that are due have moved (R303,
R310). -/
def State.releaseDue (s : State) (k : ClusterId) : State :=
  let s := s.settleLadders
  ((s.cluster k).queue.foldl (fun s q => s.releaseOne k q) s).poke k

/-- Every cluster looks at its queue: a node finished, or ticks moved. -/
def State.releaseAll (s : State) : State :=
  (upto 64).foldl (fun s k =>
    let k := BitVec.ofNat 6 k
    if (s.cluster k).queue.any fun q => q.released.isNone then s.schedule s.now (.recordRelease k) else s) s

/-! ### The Lark (R308) -/

/-- The origin a record's ticks count from: that of its frame, 0 for a record of no frame (R300). -/
def State.originOf (s : State) (q : QRec) : Nat := match q.launch.bind s.launch with | some l => l.origin | none => 0

/-- A candidate has been released for more than STARV table ticks of its frame: ticks already counted stay counted
(R300, R308). -/
def State.promoted (s : State) (q : QRec) : Bool :=
  match q.released with
  | some r => decide ((s.die.starv : Int) < s.tickOf (s.originOf q) - s.tickAt (s.originOf q) r)
  | none => false

/-- Deadline less budget (R308). -/
def State.larkKey (s : State) (q : QRec) : Option Int :=
  q.absDl.map fun a => a - (if q.bud = 65535 then 0 else q.bud) * s.die.ttlen

/-- The stream number of a candidate in ties: 64 without SV. -/
def State.larkStream (s : State) (q : QRec) : Nat :=
  match q.launch.bind s.launch with
  | some l => if l.sv then q.rcd.strm else 64
  | none => 64

/-- a comes before b in the Lark's order (R308). -/
def State.larkBefore (s : State) (a b : QRec) : Bool :=
  let older := serialLt 16 a.rcd.seq b.rcd.seq
  let ra := a.released.getD 0
  let rb := b.released.getD 0
  let byRelease := decide (ra < rb) || (ra == rb && older)
  match s.promoted a, s.promoted b with
  | true, true => byRelease
  | true, false => true
  | false, true => false
  | false, false =>
    match s.larkKey a, s.larkKey b with
    | some x, some y =>
      decide (x < y) || (x == y &&
        (decide (s.larkStream a < s.larkStream b) || (s.larkStream a == s.larkStream b && older)))
    | some _, none => true
    | none, some _ => false
    | none, none => byRelease

/-- The candidates of a context in the Lark's order. -/
def State.larkInsert (s : State) (q : QRec) : List QRec → List QRec
  | [] => [q]
  | x :: r => if s.larkBefore q x then q :: x :: r else x :: s.larkInsert q r

def State.candidates (s : State) (k : ClusterId) (x : CtxId) : List QRec :=
  ((s.cluster k).queue.filter fun q => q.released.isSome && q.rcd.ctx == x).foldl (fun l q => s.larkInsert q l) []

/-- Cores a gang may take: free, and no context holds a saved strand on them (R276). -/
def State.gangCores (s : State) (k : ClusterId) : List CoreId :=
  (clusterCores k).filter fun c => (s.core c).isFree && (s.core c).pc'.toList.all fun p => p.saved.isNone

/-- Pipe buffers free on a cluster. -/
def State.freePipes (s : State) (k : ClusterId) : List Nat :=
  (upto 16).filter fun i => match (s.cluster k).pipes[i]? with | some none => true | _ => false

/-- A gang entry can be released now (R276). -/
def State.gangFits (s : State) (k : ClusterId) (g : Gang) : Bool :=
  decide (g.m ≤ (s.gangCores k).length) && decide (g.pipes.length ≤ (s.freePipes k).length)

/-- What the Lark decides for a free core. -/
inductive LarkChoice where
  | run (q : QRec)
  | gang (q : QRec)
  | reserve (q : QRec)
  | none
deriving DecidableEq, Repr

/-- The first candidate that can start; a promoted gang entry short of cores reserves them (R308). -/
def State.larkPick (s : State) (k : ClusterId) : List QRec → LarkChoice
  | [] => .none
  | q :: r =>
    match q.gang with
    | none => .run q
    | some (g, _) =>
      if s.gangFits k g then .gang q
      else if s.promoted q && decide ((s.gangCores k).length < g.m) then .reserve q
      else s.larkPick k r

def State.larkChoice (s : State) (c : CoreId) : LarkChoice :=
  let k := clusterOf c
  match (s.cluster k).resv with
  | some u =>
    match (s.cluster k).queue.find? fun q => q.uid == u with
    | some q => (match q.gang with | some (g, _) => if s.gangFits k g then .gang q else .none | none => .none)
    | none => s.larkPick k (s.candidates k (s.core c).ctx)
  | none => s.larkPick k (s.candidates k (s.core c).ctx)

/-! ### Saving and restoring a context on a core (R16, R249, R250, R263) -/

/-- A loop-stack entry as 16 bytes (R113). -/
def loopWord (e : Option LoopEntry) : Nat :=
  match e with
  | some e => e.start.toNat + 2 ^ 8 * e.endB.toNat + 2 ^ 32 * e.count.toNat + 2 ^ 64 * e.seg.toNat + 2 ^ 127
  | none => 0

def loopsWord (l : List LoopEntry) : Nat := packNat 128 ((upto 4).map fun i => loopWord l[i]?)

def loopsOf (v : Nat) : List LoopEntry :=
  (upto 4).filterMap fun i =>
    let w := v / 2 ^ (128 * i) % 2 ^ 128
    if bit w 127 then some ⟨BitVec.ofNat 32 (w / 2 ^ 32), BitVec.ofNat 7 w, BitVec.ofNat 7 (w / 2 ^ 8),
      BitVec.ofNat 56 (w / 2 ^ 64)⟩ else none

/-- The registers of a save image, 5,632 bytes (R16). -/
def RegFile.image (r : RegFile) : Nat :=
  packNat 64 (r.g.toList.map (·.toNat)) + 2 ^ 4096 * packNat 64 (r.o.toList.map (·.toNat))
    + 2 ^ 5120 * packNat 512 (r.v.toList.map (·.toNat)) + 2 ^ 37888 * packNat 16 (r.p.toList.map (·.toNat))
    + 2 ^ 38144 * packNat 128 (r.h.toList.map (·.toNat)) + 2 ^ 40192 * packNat 512 (r.c.toList.map (·.toNat))
    + 2 ^ 44288 * packNat 32 (r.f.toList.map (·.toNat)) + 2 ^ 44800 * packNat 32 (r.z.toList.map (·.toNat))

/-- The registers an image holds; x0 to x7 read as zero (R249). -/
def RegFile.ofImage (v : Nat) : RegFile where
  g := Vector.ofFn fun i => BitVec.ofNat 64 (v >>> (64 * i.val))
  o := Vector.ofFn fun i => BitVec.ofNat 64 (v >>> (4096 + 64 * i.val))
  v := Vector.ofFn fun i => BitVec.ofNat 512 (v >>> (5120 + 512 * i.val))
  p := Vector.ofFn fun i => BitVec.ofNat 16 (v >>> (37888 + 16 * i.val))
  h := Vector.ofFn fun i => BitVec.ofNat 128 (v >>> (38144 + 128 * i.val))
  c := Vector.ofFn fun i => BitVec.ofNat 512 (v >>> (40192 + 512 * i.val))
  f := Vector.ofFn fun i => BitVec.ofNat 32 (v >>> (44288 + 32 * i.val))
  z := Vector.ofFn fun i => BitVec.ofNat 32 (v >>> (44800 + 32 * i.val))
  x := Vector.replicate 8 0

/-- The control block of a context on a core, 128 bytes (R250, R263). -/
def controlBlock (k : Core) (rev : BitVec 32) : Nat :=
  let p := k.pctx
  let run := match k.run with
    | some r => loopsWord k.loops + 2 ^ 512 * k.pc.abs.toNat
        + 2 ^ 576 * (r.rcd.w1.toNat - r.rcd.w1.toNat % 16 + r.rflg.toNat % 16)
        + 2 ^ 640 * r.rcd.w2.toNat + 2 ^ 704 * r.rcd.w3.toNat
        + 2 ^ 768 * (2 ^ 56 * k.vrb + 2 ^ 61 * k.prb)
    | none => 0
  let ec := if p.satf then 2 ^ 56 - 1 else p.ec.toNat
  let cfg := match k.mx.cfg with
    | some g => g.fa.toNat + 2 ^ 32 * g.fb.toNat + 2 ^ 64 * g.fd.toNat
    | none => 0
  run + 2 ^ 768 * ec
    + 2 ^ 832 * (p.ncs.toNat + 2 ^ 10 * boolCode p.gmode + 2 ^ 11 * p.lim + 2 ^ 16 * p.divCtl + 2 ^ 20 * p.divVec
      + 2 ^ 24 * p.divMat + 2 ^ 28 * p.divCpy + 2 ^ 32 * rev.toNat)
    + 2 ^ 896 * cfg + 2 ^ 992 * p.scl.toNat

/-- The base of a context's save area on a core (R250). -/
def State.saveArea (s : State) (x : CtxId) (c : CoreId) : Nat := (s.ctx x).saveb.toNat + 8192 * c.toNat

/-- The copy of the record from which a core last picked up a strand of a context (R251). -/
def State.recordCopy (s : State) (x : CtxId) (c : CoreId) : Nat := s.saveArea x c + 5760

/-- What a strand switched out leaves with the core. -/
def Core.parked (k : Core) (r : Running) : Parked :=
  ⟨r, k.cp.done, k.ga.done, k.sg.passes, k.sg.syms, k.sg.rows, k.cp.err, k.ga.err, k.mx.err, k.sg.err, k.bad, k.late, k.readTimes⟩

/-- The core's group switch: latches, ports, queues and what only a running strand has (R24, R200, R219, R285). The
capsule stays (R233). What trapped bundles had read goes with the strand's registers: a strand that suspends between a
trap and the TRET of its image finds it read afresh, since the image has no place for it (R48, log 38). -/
def Core.groupSwitch (k : Core) : Core :=
  { k with
    run := none
    lat := Latches.reset
    ports := Ports.reset
    bs := BundleState.reset
    masked := false
    capst := false
    readTimes := []
    ui := UiState.reset
    fl := []
    bad := []
    late := []
    cp := { k.cp with active := none, pending := none, done := 0, err := none }
    ga := ⟨[], 0, none⟩
    mx := { Matrix.reset with clk := k.mx.clk }
    q0 := []
    q1 := []
    resv0 := 0
    resv1 := 0
    q2 := []
    q3 := []
    sg := { Sedge.reset with clk := k.sg.clk }
    w3 := none
    outPipe := Vector.replicate 4 none
    inPipe := Vector.replicate 4 none
    phase := .idle }

/-- Ref ticks from one time to another. -/
def refTicks (a b : Nat) : Nat := (b - a) / 5

/-- What a save or a restore takes when none is listed: 270 ref ticks, the measured figure of program C. DESIGN CHOICE
(log 3). -/
def guideSwitch : Nat := 1350

/-- The outgoing context's control block and, with a running strand, its image are written (R249 step 2), which takes
time; the core then holds no context (R259). The halves of the loop buffer keep the context's segments (R75, R77). -/
def State.saveCtx (s : State) (c : CoreId) : State :=
  let k := s.core c
  let a := s.saveArea k.ctx c
  let has := decide ((s.ctx k.ctx).saveb ≠ 0)
  let s := if has then
      let s := if k.run.isSome then s.writeDie a 5632 k.rf.image else s
      s.writeDie (a + 5632) 128 (controlBlock k s.die.revCount)
    else s
  let (d, s) := if has then s.takeDelay guideSwitch else (0, s)
  let t := Nat.max s.now k.time + d
  s.onCore c fun k =>
    let k := k.passTo t
    let k := k.onPctx fun p => { p with
      saved := k.run.map k.parked
      inArea := has
      rtk := p.rtk + refTicks k.resFrom t }
    { k.groupSwitch with
      capsule := none
      inSlice := false, switchDue := false, idleFrom := t }

/-- A slice of context x begins on a core (R248). -/
def State.beginSlice (s : State) (c : CoreId) (x : CtxId) (t : Nat) : State :=
  let p := (s.core c).pctxOf x
  let b := (s.ctx x).slice.toNat - p.odebt
  let s := s.onCore c fun k => { k.onPctxOf x (fun p => { p with odebt := 0 }) with
    inSlice := true, sliceFrom := t, budget := b, switchDue := false }
  s.schedule (t + 5 * b) (.sliceExpire c)

/-- A context's state on a core from its control block; a divisor is never below DIVFL (R249, R254, R263). -/
def PerCtx.ofBlock (p : PerCtx) (b fl : Nat) : PerCtx :=
  let w := bits b 895 832
  let d (i : Nat) : Nat := Nat.max fl (bits w (19 + 4 * i) (16 + 4 * i))
  { p with
    ncs := BitVec.ofNat 10 w
    gmode := bit w 10
    lim := bits w 15 11
    divCtl := d 0
    divVec := d 1
    divMat := d 2
    divCpy := d 3
    scl := BitVec.ofNat 32 (b / 2 ^ 992)
    ec := BitVec.ofNat 56 (b / 2 ^ 768)
    satf := bits b 823 768 == 2 ^ 56 - 1 }

/-- The tile configuration of a control block (R186, R250). -/
def cfgOfBlock (b : Nat) : Option TileCfg :=
  let fa : Fmt := BitVec.ofNat 32 (b / 2 ^ 896)
  let fb : Fmt := BitVec.ofNat 32 (b / 2 ^ 928)
  if fa = 0 then none else some ⟨0, fa, fb, BitVec.ofNat 32 (b / 2 ^ 960), pmaxOf fa fb⟩

/-- The encoder queue of a strand's frame (R357). -/
def State.w3Of (s : State) (launch : Option Nat) : Option StrmId :=
  match launch.bind s.launch with
  | some l => if l.sv then
      match s.stream l.strm.toNat with
      | some t => if t.ev then some l.strm else none
      | none => none
    else none
  | none => none

/-- A restored strand goes on at a bundle (R75, R249). -/
def Core.resumeAt (k : Core) (t : Target) : Core :=
  let k := k.goTo t
  { k with bs := { k.bs with arrived := true } }

/-- A context becomes resident, its saved strand with it (R249 step 3); the block of a context that has none
holds the reset values. -/
def State.restoreCtx (s : State) (c : CoreId) (x : CtxId) (t : Nat) : State :=
  let fl := (s.cluster (clusterOf c)).divfl
  let a := s.saveArea x c
  let k := s.core c
  let p := k.pctxOf x
  let k : Core := { k.passTo t with
    ctx := x
    idle := k.idle + refTicks k.idleFrom (Nat.max s.now k.time)
    resFrom := Nat.max s.now k.time }
  if p.inArea then
    let b := s.mem.read (a + 5632) 128
    let next := bits b 575 512
    let k := k.onPctx fun p => { p.ofBlock b fl with saved := none, inArea := false }
    match (if next = 0 then none else p.saved) with
    | none => s.setCore c { k with mx := { k.mx with cfg := cfgOfBlock b } }
    | some q =>
      let w1 := bits b 639 576
      let r : Running := { q.run with
        rcd := { q.run.rcd with
          w1 := BitVec.ofNat 64 (w1 - w1 % 16)
          w2 := BitVec.ofNat 64 (b / 2 ^ 640)
          w3 := BitVec.ofNat 64 (b / 2 ^ 704) }
        rflg := BitVec.ofNat 8 (w1 % 16) }
      let rf := RegFile.ofImage (s.mem.read a 5632)
      let stale := bits b 895 864 != s.die.revCount.toNat
      let rf : RegFile := { rf with h := rf.h.map (fun h => if !stale || Handle.isSpad h then h else Handle.invalid h) }
      s.setCore c ({ k with
        run := some r
        rf := rf
        loops := loopsOf (b % 2 ^ 512)
        vrb := bits b 828 824
        prb := bits b 831 829
        mx := { k.mx with cfg := cfgOfBlock b, err := q.mxErr }
        cp := { k.cp with done := q.cpDone, err := q.cpErr }
        ga := { k.ga with done := q.gaDone, err := q.gaErr }
        sg := { k.sg with passes := q.passes, syms := q.syms, rows := q.rows, err := q.sgErr }
        bad := q.bad
        late := q.late
        readTimes := q.readTimes
        w3 := s.w3Of r.launch }.resumeAt (Target.ofAbs next))
  else
    s.setCore c (k.onPctx fun p => { p with
      divCtl := Nat.max fl p.divCtl
      divVec := Nat.max fl p.divVec
      divMat := Nat.max fl p.divMat
      divCpy := Nat.max fl p.divCpy })

/-- An emergency save has come to context x: contexts 1 to 15, then 0 (R387). -/
def State.saveReached (s : State) (x : CtxId) : Bool :=
  s.die.stopped && (match s.die.saving with
    | none => true
    | some n => decide ((if x = 0 then 16 else x.toNat) ≤ n))

/-- A context may be given slices: SLICE is not 0, and an emergency save has not taken it (R247, R387). -/
def State.mayStart (s : State) (x : CtxId) : Bool := (s.ctx x).slice != 0 && !s.saveReached x

/-- A context can be given a slice on a core (R247). -/
def State.qualifies (s : State) (c : CoreId) (x : CtxId) : Bool :=
  s.mayStart x &&
  (((s.core c).pctxOf x).saved.isSome ||
    (s.cluster (clusterOf c)).queue.any fun q => q.released.isSome && q.rcd.ctx == x)

/-- The next context after x that qualifies, x itself last (R247). -/
def State.nextCtx (s : State) (c : CoreId) (x : CtxId) : Option CtxId :=
  ((upto 16).map fun i => x + BitVec.ofNat 4 (i + 1)).find? fun y => s.qualifies c y

/-- The switch is pending at a time: the slice's budget has ended. SLICE does not apply to a gang member (R248,
R278). -/
def Core.sliceOver (k : Core) (t : Nat) : Bool :=
  k.inSlice && decide (k.sliceFrom + 5 * k.budget ≤ t) && (k.run.bind (·.gang)).isNone

/-- Ticks by which a switch that starts at a time overran its slice, at most OVRL (R248). -/
def State.debtAt (s : State) (c : CoreId) (t : Nat) : Nat :=
  let k := s.core c
  Nat.min (refTicks (k.sliceFrom + 5 * k.budget) t) (s.ctx k.ctx).ovrl.toNat

/-- A core's switch, when it is pending, starts at a time: its debt is noted (R248). -/
def State.noteDebt (s : State) (c : CoreId) (t : Nat) : State :=
  let d := if (s.core c).sliceOver t then s.debtAt c t else 0
  s.onCore c fun k => k.onPctx fun p => { p with odebt := d }

/-- The core takes context x, or idles (R247, R249 steps 3 and 4). -/
def State.enterCtx (s : State) (c : CoreId) (x : Option CtxId) : State :=
  match x with
  | none => s
  | some x =>
    let (d, s) := s.takeDelay guideSwitch
    let t := Nat.max s.now (s.core c).time + d
    let s := (s.restoreCtx c x t).beginSlice c x t
    if (s.core c).run.isSome then s else s.schedule t (.pickup c)

/-! ### Pick-ups (R10, R14, R251) -/

/-- A strand starts on a core from its record (R14, R123, R251, R330). -/
def State.startRecord (s : State) (c : CoreId) (q : QRec) (gang : Option Nat) : State :=
  let x := (s.core c).ctx
  let s := if (s.ctx x).saveb ≠ 0 then s.writeDie (s.recordCopy x c) 64 q.rcd.toNat else s
  let s := s.selfInvalidate c
  s.onCore c fun k =>
    let r : Running := ⟨q.uid, q.rcd, BitVec.ofNat 8 q.rcd.flg, q.launch, gang, q.frozen, q.split, q.vc, [], 0, []⟩
    let rf := ((((RegFile.reset.write 60 q.rcd.cv0.toNat).write 61 q.rcd.cv1.toNat).write 62 q.rcd.cv2.toNat).write
      63 q.rcd.cv3.toNat)
    let k := { (k.passTo s.now).groupSwitch with run := some r, rf := rf, loops := [], vrb := 0, prb := 0, w3 := s.w3Of q.launch }.goTo q.rcd.place
    { k with bs := { k.bs with picked := some (BitVec.ofNat 8 (q.rcd.w0.toNat / 2 ^ 8)), arrived := true } }

def State.dequeue (s : State) (k : ClusterId) (uid : Nat) : State :=
  s.onCluster k fun c => { c with queue := c.queue.filter fun q => q.uid != uid }

/-- A pipe buffer of a cluster set (R276). -/
def Cluster.setPipe (c : Cluster) (i : Nat) (p : Option Pipe) : Cluster :=
  if h : i < 16 then { c with pipes := c.pipes.set i p h } else c

/-- A push port or a queue head of a core bound to a pipe buffer (R276, R277). -/
def Core.bindOut (k : Core) (j : Nat) (p : Option Nat) : Core :=
  if h : j < 4 then { k with outPipe := k.outPipe.set j p h } else k
def Core.bindIn (k : Core) (j : Nat) (p : Option Nat) : Core :=
  if h : j < 4 then { k with inPipe := k.inPipe.set j p h } else k

/-- A gang entry is released: its members start on the lowest free cores, its pipes are bound (R276, R277). -/
def State.startGang (s : State) (k : ClusterId) (q : QRec) (g : Gang) (entries : List (BitVec 56)) : State :=
  let cores := (s.gangCores k).take g.m
  let bufs := (s.freePipes k).take g.pipes.length
  let (gid, s) := s.takeId
  let s := (s.dequeue k q.uid).onCluster k fun c => { c with resv := (if c.resv = some q.uid then none else c.resv) }
  let s := (cores.zip (g.nodes.zip entries)).foldl (fun (e : State × Nat) m =>
    let (s, j) := e
    let c := m.1
    let node := m.2.1
    let s := if (s.core c).inSlice && (s.core c).ctx == q.rcd.ctx then s
      else
        let s := if (s.core c).inSlice then s.saveCtx c else s
        (s.restoreCtx c q.rcd.ctx (Nat.max s.now (s.core c).time)).beginSlice c q.rcd.ctx s.now
    let (uid, s) := if j = 0 then (q.uid, s) else s.takeId
    let s := match q.launch with | some id => s.nodeReleased id q.rcd.tmpl node | none => s
    let rcd : Record := (q.rcd.setNode node).setPlace ⟨m.2.2, 0⟩ q.rcd.flg
    let s := s.startRecord c { q with uid := uid, rcd := rcd, gang := none } (some gid)
    (s.onCore c (fun k => { k with gangHold := some gid }), j + 1)) (s, 0) |>.1
  (g.pipes.zip bufs).foldl (fun s e =>
    let pc := cores[e.1.1]?.getD 0
    let cc := cores[e.1.2.2.1]?.getD 0
    let (e, i) := e
    let s := s.onCluster k fun c => c.setPipe i (some ⟨gid, pc, cc, [], 0, [], false, false⟩)
    let s := s.onCore pc fun k => k.bindOut e.2.1 (some i)
    s.onCore cc fun k => k.bindIn e.2.2.2 (some i)) s

/-- What the Lark does for a free core of a resident context (R247, R308). -/
def State.larkServe (s : State) (c : CoreId) : State :=
  let k := clusterOf c
  match s.larkChoice c with
  | .run q => State.startRecord (s.dequeue k q.uid) c q none
  | .gang _ => s.schedule s.now (.gangRelease k)
  | .reserve q => s.onCluster k fun cl => { cl with resv := some q.uid }
  | .none =>
    if (s.cluster k).resv.isSome then s
    else if (s.candidates k (s.core c).ctx).isEmpty then
      match s.nextCtx c (s.core c).ctx with
      | none => s.saveCtx c
      | some x => (s.saveCtx c).enterCtx c (some x)
    else s

/-- A free core is given work: a pending switch, the resident context's records, or the next context. -/
def State.serveCore (s : State) (c : CoreId) : State :=
  let k := s.core c
  if !k.isFree || (s.cluster (clusterOf c)).retained then s
  else if s.now < k.time then s.schedule k.time (.pickup c)
  else if !k.inSlice then s.enterCtx c (s.nextCtx c k.ctx)
  else if k.switchDue || k.sliceOver s.now then
    match s.nextCtx c k.ctx with
    | none => s.saveCtx c
    | some x => if x = k.ctx then (s.beginSlice c x s.now).larkServe c else (s.saveCtx c).enterCtx c (some x)
  else s.larkServe c

/-! ### Slices (R248) -/

/-- The budget ends: the switch is pending, a free core switches, and SLICEOVR follows OVRL later. -/
def State.expireSlice (s : State) (c : CoreId) : State :=
  let k := s.core c
  if !k.inSlice || k.switchDue || decide (s.now < k.sliceFrom + 5 * k.budget) then s
  else
    let s := s.onCore c fun k => { k with switchDue := true }
    if k.isFree then s.serveCore c
    else s.schedule (s.now + 5 * (s.ctx k.ctx).ovrl.toNat) (.sliceovr c)

/-- A record is picked up by a free core (R10, R308). -/
def execPickup (c : CoreId) (s : State) : Host.Outcome State Fault Refusal := .next (s.serveCore c)

/-- The Lark releases a gang entry (R276). -/
def execGangRelease (k : ClusterId) (s : State) : Host.Outcome State Fault Refusal :=
  let choice := (clusterCores k).findSome? fun c =>
    if (s.core c).isFree && (s.core c).inSlice then
      match s.larkChoice c with
      | .gang q => q.gang.map fun g => (q, g)
      | _ => none
    else none
  match choice with
  | some (q, g, e) => .next ((s.startGang k q g e).poke k)
  | none => .next s

/-- The release tick of records of a cluster comes (R303). -/
def execRecordRelease (k : ClusterId) (s : State) : Host.Outcome State Fault Refusal := .next (s.releaseDue k)

/-- A slice's budget ends (R248). -/
def execSliceExpire (c : CoreId) (s : State) : Host.Outcome State Fault Refusal := .next (s.expireSlice c)

end Sys2Proof.Machine
end

