-- ==== Sys2Proof/Machine/Meter.lean ====
section
/-! DEFINITION. The energy meter: harvests and totals (R377 to R381). -/

namespace Sys2Proof.Machine

/-- SW(n), in units of 2^-8 pJ per ref tick: firmware refreshes it at each harvest (R380). -/
def State.staticWeight (s : State) (n : Nat) : Nat :=
  if s.die.swGen = 0 then 0 else (Config.staticWeight (n + 512 * s.die.swGen)).toNat

/-- The counter of a context on a core and whether it is saturated: live, or in its control block (R377). -/
def State.meterValue (s : State) (x : CtxId) (c : CoreId) : Nat × Bool :=
  let p := (s.core c).pctxOf x
  let v := if p.inArea then s.mem.read (s.saveArea x c + 5728) 7 else p.ec.toNat
  if p.inArea then (v, v == 2 ^ 56 - 1) else (v, p.satf)

/-- Ref ticks for which context x was resident on a core (R259); in retention the clock stands (R372). -/
def State.residentTicks (s : State) (x : CtxId) (c : CoreId) : Nat :=
  let k := s.core c
  (k.pctxOf x).rtk + (if k.inSlice && k.ctx == x && !(s.cluster (clusterOf c)).retained then refTicks k.resFrom s.now else 0)

/-- What a harvest takes of a context on a core, in units of 2^-8 pJ, and whether a counter was saturated
(R378, R379, R380). -/
def State.meterTake (s : State) (x : CtxId) (c : CoreId) : Nat × Bool :=
  let p := (s.core c).pctxOf x
  let (v, sat) := s.meterValue x c
  ((if sat then (2 ^ 48 - 1) * 256 else v) + p.carry + s.staticWeight c.toNat * s.residentTicks x c, sat || p.carrySat)

/-- The counter, RTK and carry of a context on a core cleared (R377). -/
def State.meterClear (s : State) (x : CtxId) (c : CoreId) : State :=
  let p := (s.core c).pctxOf x
  let s := if p.inArea then s.writeDie (s.saveArea x c + 5728) 7 0 else s
  s.onCore c fun k =>
    let k := k.onPctxOf x fun p => { p with ec := 0, satf := false, carry := 0, carrySat := false, rtk := 0 }
    { k with resFrom := if k.inSlice && k.ctx == x then Nat.max k.resFrom s.now else k.resFrom }

/-- An amount added to a total (R381). -/
def Total.add (t : Total) (units : Nat) (sat : Bool) (stamp : Nat) : Total :=
  if units = 0 ∧ !sat then t
  else ⟨t.tot + BitVec.ofNat 96 units, t.hseq + 1, BitVec.ofNat 64 stamp, t.sati || sat⟩

def State.addTotal (s : State) (i units : Nat) (sat : Bool) : State :=
  let t := if h : i < 17 then s.die.totals.set i ((s.die.totals[i]).add units sat s.gt) h else s.die.totals
  { s with die := { s.die with totals := t } }

/-- The step of a harvest for one context (R377, R380). -/
def State.harvestCtx (s : State) (x : CtxId) : State :=
  let (e, sat) := (upto 512).foldl (fun (a : Nat × Bool) c =>
    let (v, b) := s.meterTake x (BitVec.ofNat 9 c)
    (a.1 + v, a.2 || b)) (0, false)
  let bytes := 256 * ((s.ctx x).gddrBytes * s.die.mwb + (s.ctx x).linkBytes * s.die.fwb)
  let s := s.addTotal x.toNat (e + bytes) sat
  let s := (upto 512).foldl (fun s c => s.meterClear x (BitVec.ofNat 9 c)) s
  s.onCtx x fun c => { c with gddrBytes := 0, linkBytes := 0 }

/-- Ref ticks a core spent without a context (R259); in retention the clock stands (R372). -/
def State.idleTicks (s : State) (c : CoreId) : Nat :=
  let k := s.core c
  k.idle + (if k.inSlice || (s.cluster (clusterOf c)).retained then 0 else refTicks k.idleFrom s.now)

/-- A harvest: every context, then the house account, with the rail energy the meter cannot attribute, an
open value (R377, R380, log 5); then the weights firmware refreshes. -/
def State.harvestAll (s : State) : State :=
  let s := (upto 16).foldl (fun s x => s.harvestCtx (BitVec.ofNat 4 x)) s
  let idle := (upto 512).foldl (fun a c => a + s.staticWeight c * s.idleTicks (BitVec.ofNat 9 c)) 0
  let (rest, s) := s.takeFree
  let s := s.addTotal 16 (idle + 256 * (s.die.houseBytes * s.die.mwb + s.die.houseLink * s.die.fwb) + rest) false
  { s with
    cores := s.cores.map (fun k => { k with idle := 0, idleFrom := if k.inSlice then k.idleFrom else Nat.max k.idleFrom s.now })
    die := { s.die with
      houseBytes := 0
      houseLink := 0
      lastHarvest := s.gt
      swGen := (if s.die.swGen = 0 then 0 else s.die.swGen + 1) } }

/-- The next harvest scheduled, when none is. -/
def State.planHarvest (s : State) : State :=
  if s.events.any fun e => e.2 == .harvest then s
  else s.schedule (s.whenGt ((s.gt / 100000000 + 1) * 100000000)) .harvest

/-! ### Signed readings (R391, R392) -/

/-- The body of a reading of an account (R392): STAMP is that of the total. -/
def State.readingBody (s : State) (a kind : Nat) : List Byte :=
  let t : Total := s.die.totals[a]?.getD ⟨0, 0, 0, false⟩
  let tenant := if a < 16 then (s.ctx (BitVec.ofNat 4 a)).tenant.toNat else 0
  toBytes 64 (s.die.rdSeq.toNat + 2 ^ 64 * tenant + 2 ^ 128 * t.stamp.toNat + 2 ^ 192 * t.tot.toNat
    + 2 ^ 288 * a + 2 ^ 296 * (kind + 4 * boolCode t.sati))

/-- The counter of sequence numbers has no step left (R391). -/
def State.readingsSpent (s : State) : Bool := decide (16384 ≤ s.die.rdSeq.toNat / 2 ^ 16)

/-- A signed reading of an account, kept among the last 256 (R392, R393); none once the counter is spent. -/
def State.makeReading (s : State) (a kind : Nat) : State :=
  if s.readingsSpent then s
  else
    let r : Reading := ⟨s.die.rdSeq, s.readingBody a kind⟩
    let l := s.die.readings ++ [r]
    let s := { s with die := { s.die with
      rdSeq := s.die.rdSeq + 1
      readings := l.drop (l.length - 256) } }
    if a < 16 then s.onCtx (BitVec.ofNat 4 a) fun c => { c with rseq := r.seq } else s

/-- Firmware reads the sentinels of every cluster once every 10 s of global time: here at multiples of 10 s (R376,
log 27). -/
def State.planAgeing (s : State) : State :=
  if s.die.lastHarvest / 10000000000 < s.gt / 10000000000 then
    (upto 64).foldl (fun s k => s.schedule s.now (.ageingCheck (BitVec.ofNat 6 k)
      (BitVec.ofNat 4 (Nat.max 3 (Config.agedFloor k (s.gt / 10000000000)).toNat)))) s
  else s

/-- A harvest falls due at timer values that are multiples of 100 ms (R377). -/
def execHarvest (s : State) : Host.Outcome State Fault Refusal :=
  let due := s.gt % 100000000 == 0 || decide (s.die.lastHarvest / 100000000 < s.gt / 100000000)
  let s := s.planAgeing
  .next (if due && s.die.saving.isNone then s.harvestAll.planHarvest else s.planHarvest)

/-- CLR of a total (R381). -/
def execTotalClr (a : Fin 17) (s : State) : Host.Outcome State Fault Refusal :=
  let t := s.die.totals.set a.val { s.die.totals[a.val] with tot := 0, hseq := 0, sati := false }
  .next { s with die := { s.die with totals := t } }

end Sys2Proof.Machine
end

