-- ==== Sys2Proof/Machine/Launch.lean ====
section
/-! DEFINITION. Join counters, launch packets, leases, records of launches, completions, stream open and close
(R289 to R304, R309, R310, R351, R352, R405, R406). -/

namespace Sys2Proof.Machine

/-! ### Join counters (R296 to R299) -/

def State.join (s : State) (j : Nat) : Join := Tbl.get Join.reset s.joins j

def State.setJoin (s : State) (j : Nat) (t : Join) : State := { s with joins := Tbl.put Join.reset s.joins j t }

/-- A user context meets a counter of another context (R297). -/
def State.joinForeign (s : State) (j : Nat) (x : CtxId) : Bool :=
  x != 0 && (match (s.join j).own with | some o => o != x | none => false)

/-- A waiting record goes back to its cluster's queue, released at once (R125, R303). -/
def State.requeue (s : State) (k : ClusterId) (q : QRec) (v : Vc) : State :=
  s.enqueue k { q with released := some s.gt, vc := vcJoin q.vc v }

/-- The counter is zero: waiters return to their queues, parked launches go on (R125, R298). A waiter whose
record is not written yet is still on its core, which finds it released when it leaves. -/
def State.joinZero (s : State) (j : Nat) : State :=
  let t := s.join j
  let s := s.setJoin j { t with waiters := [], parked := [] }
  let s := t.waiters.foldl (fun s e => if e.1.released.isNone then s else s.requeue e.2 e.1 t.vc) s
  t.parked.foldl (fun s id =>
    (s.onLaunch id fun l => { l with deperr := l.deperr || t.err, vc := vcJoin l.vc t.vc }).schedule s.now
      (.launchUnpark id)) s

/-- A decrement at the table: the word of R299. -/
def State.joinDec (s : State) (j : Nat) (v : Vc) : State × Nat :=
  let t := s.join j
  let s := s.setJoin j { t with vc := vcJoin t.vc v }
  if t.value = 0 then (s, 2 ^ 32)
  else
    let n := t.value - 1
    let s := s.setJoin j { t with value := n, vc := vcJoin t.vc v }
    if n = 0 then (s.joinZero j, 2 ^ 33) else (s, n.toNat)

/-- JINIT at the table: the previous value (R299). -/
def State.joinInit (s : State) (j n : Nat) (v : Vc) : State × Nat :=
  let t := s.join j
  let s := s.setJoin j { t with value := BitVec.ofNat 32 n, err := false, vc := vcJoin t.vc v }
  (if n = 0 then s.joinZero j else s, t.value.toNat)

/-- ERR set on a counter (R298). -/
def State.joinErr (s : State) (j : Nat) : State := s.setJoin j { s.join j with err := true }

/-! ### Completions (R290, R294) -/

/-- The step that accepts the packet at the head of a command stream, by its OP (R290, R292). -/
def State.nextPacket (s : State) (x : CtxId) : State :=
  let c := s.ctx x
  if !c.ena || c.csh == c.cst || !c.heldC.isEmpty || s.die.stopped || !s.die.powered
      || (s.launches.any fun l => l.ctx == x && l.step == .held) then s
  else
    let op := s.mem.read (c.csb.toNat + 128 * (c.csh.toNat % 2 ^ c.csn.toNat)) 1
    s.schedule s.now (match op with
      | 0 => .launchNop x
      | 2 => .launchGang x
      | 3 => .streamOpen x
      | 4 => .streamClose x
      | _ => .launch x)

/-- Held completions go to the ring while it has room; packets are read again when none is held (R290). -/
def State.flushHeld (s : State) (x : CtxId) : Nat → State
  | 0 => s
  | n + 1 =>
    let c := s.ctx x
    match c.heldC with
    | [] => s
    | r :: rest =>
      if (c.cqt - c.cqh).toNat < 2 ^ c.cqn.toNat then
        let s := s.writeDie (c.cqb.toNat + 32 * (c.cqt.toNat % 2 ^ c.cqn.toNat)) 32 r.toNat
        (s.onCtx x fun c => { c with cqt := c.cqt + 1, heldC := rest }).flushHeld x n
      else s

/-- A completion written, or held behind a full ring (R290, R294). -/
def State.complete (s : State) (l : Launch) (count : Nat) (cause : Nat) : State :=
  let c := s.ctx l.ctx
  let w := l.ctag.toNat + 2 ^ 64 * (cause + 2 ^ 9 * boolCode l.junder + 2 ^ 10 * boolCode l.deperr
      + 2 ^ 11 * boolCode l.late + 2 ^ 16 * c.cseq.toNat + 2 ^ 32 * (if l.sv then l.fseq.toNat else 0))
    + 2 ^ 128 * count + 2 ^ 192 * (s.gt % 2 ^ 64)
  let s := s.onCtx l.ctx fun c => { c with cseq := c.cseq + 1, heldC := c.heldC ++ [BitVec.ofNat 256 w] }
  { s.flushHeld l.ctx ((s.ctx l.ctx).heldC.length) with hostVc := vcJoin s.hostVc l.vc }

/-- The counter DJ after a completion: ERR before the decrement when the launch failed (R298). -/
def State.completeDj (s : State) (l : Launch) : State :=
  match l.dj with
  | none => s
  | some j =>
    if s.joinForeign j l.ctx then s
    else
      let s := if l.cause.isSome || l.deperr then s.joinErr j else s
      (s.joinDec j l.vc).1

/-! ### The ladder at a frame's end (R310) -/

/-- A stream frame completes: late, or on time; its ladder moves in this tick, unless the frame has moved it already. -/
def State.ladderEnd (s : State) (l : Launch) : State × Launch :=
  match (if l.sv then s.stream l.strm.toNat else none) with
  | none => (s, l)
  | some t =>
    let late := serialLt 32 ((l.base.toNat + t.dloff.toNat) % 2 ^ 32) (s.tick l.origin)
    let l := { l with late := late }
    if l.dropped then (s, l)
    else
      let k := s.tickOf l.origin
      let s := s.setStream l.strm.toNat (some { t with ladder := ladderInsert (k, l.fseq, late) t.ladder })
      (s.schedule (s.tickEnds l.origin) (.recordRelease 0), l)

/-- A launch of the stream has been accepted and not completed, other than the close (R352). -/
def State.streamBusy (s : State) (n : Nat) : Bool :=
  s.launches.any fun l => l.sv && l.strm.toNat == n && l.step != .closing

/-- A frame of a stream is gone: the moves that waited for it are made, and so are the launches looked at that came to
step 5 in this tick (R310). -/
def State.frameGone (s : State) (l : Launch) : State :=
  if !l.sv then s
  else
    let s := s.settleLadder l.strm.toNat false
    s.launches.foldl (fun s q =>
      if q.sv && q.strm == l.strm && q.step == .frame then s.schedule s.now (.launchStartDue q.id) else s) s

/-- A launch completes: ladder, pin, completion, DJ, and a close that waits for it (R294, R298, R310, R351). -/
def State.completeLaunch (s : State) (id : Nat) : State :=
  match s.launch id with
  | none => s
  | some l =>
    let (s, l) := if l.step = .live ∨ l.step = .empty then s.ladderEnd l else (s, l)
    let s := match l.pinned with | some p => s.unpinLaunch p | none => s
    let s := State.frameGone { s with launches := s.launches.filter fun x => x.id != id } l
    let s := s.complete l l.created (match l.cause with | some c => c.code | none => 0)
    let s := s.completeDj l
    let s := match (if l.sv then s.stream l.strm.toNat else none) with
      | some t => if t.closing.isSome && !s.streamBusy l.strm.toNat then s.schedule s.now (.streamClose t.ctx) else s
      | none => s
    s.nextPacket l.ctx

/-- A launch refused or ended with a cause before it has records. -/
def State.failLaunch (s : State) (id : Nat) (c : Cause) : State :=
  (s.onLaunch id fun l => { l with cause := some c }).completeLaunch id

/-! ### Records of a launch (R302, R304) -/

/-- An ended record of a frame: its node may finish, and the launch may complete (R302, R304, R306). A node that finishes
again, for records that came after its others had ended, adds to STALL what it has not added before (log 22). -/
def State.recordEnds (s : State) (id tmpl node frozen split : Nat) : State :=
  match s.launch id with
  | none => s
  | some l =>
    let l := { l.onNode tmpl node (fun n => { n with
      live := n.live - 1, frozen := n.frozen + frozen, split := n.split + split }) with live := l.live - 1 }
    let s := s.setLaunch l
    let s : State := match l.nodeAcc tmpl node with
      | some n =>
        if n.live = 0 ∧ !n.finished then
          let t := s.tick l.origin
          let ovf := match n.due with
            | some d => if serialLt 32 d t then (t + 2 ^ 32 - d) % 2 ^ 32 else 0
            | none => 0
          let sat (v : Nat) : Nat := Nat.min (v / 256) 65535
          let more := ovf - n.counted
          let s := s.setLaunch { l.onNode tmpl node (fun n => { n with finished := true, counted := n.counted + more }) with
            stall := l.stall + more }
          let s := if more = 0 then s
            else s.postEvent l.ctx 0x80 0 (l.strm.toNat * boolCode l.sv + 2 ^ 6 * boolCode l.sv + 2 ^ 16 * node
              + 2 ^ 32 * (if l.sv then l.fseq.toNat else 0) + 2 ^ 64 * ovf + 2 ^ 96 * sat n.frozen + 2 ^ 112 * sat n.split)
          s.releaseAll
        else s
      | none => s
    if l.live = 0 then s.completeLaunch id else s

/-- A launch's home cluster for instance i of a node (R302). -/
def State.homeOf (s : State) (l : Launch) (e i : Nat) : ClusterId :=
  let dflt := BitVec.ofNat 6 (i % 64)
  if neNarg e = 0 then dflt
  else match argAddr e i 0 with
    | none => dflt
    | some a =>
      match s.present l.ctx a, leasePerm l.leases a with
      | some m, some _ => homeCluster (m.phys a)
      | _, _ => dflt

/-- REL and DLN of a record of a node of a frame (R302). -/
def frameTicks (l : Launch) (dloff e : Nat) : Nat × Nat :=
  let dln :=
    if neDoff e = 0xFFFFFF then
      if l.sv then some ((l.base.toNat + dloff) % 2 ^ 32) else none
    else some ((l.base.toNat + neDoff e) % 2 ^ 32)
  ((l.base.toNat + neRoff e) % 2 ^ 32,
    match dln with
    | none => 2 ^ 32 - 1
    | some d => if d = 2 ^ 32 - 1 then 2 ^ 32 - 2 else d)

/-- A record of a launch enters its home cluster's queue; a gang entry counts for each of its members' nodes (R276, R302,
R304). -/
def State.createRecord (s : State) (id : Nat) (e : Nat) (r : Record) (g : Option (Gang × List (BitVec 56))) : State :=
  match s.launch id with
  | none => s
  | some l =>
    let dloff := match (if l.sv then s.stream l.strm.toNat else none) with | some t => t.dloff.toNat | none => 0
    let (rel, dln) := frameTicks l dloff e
    let (seq, s) := s.nextSeq l.ctx
    let (uid, s) := s.takeId
    let w1 := setBits (setBits r.w1.toNat 10 6 (if l.sv then l.strm.toNat else 0)) 4 2 (if l.sv then l.rung else 0)
    let r := ({ r with
      w1 := BitVec.ofNat 64 w1
      w2 := BitVec.ofNat 64 (rel * 2 ^ 32 + dln) }).setW3 seq 0
    let s := match g with
      | some (g, _) => g.nodes.foldl (fun (s : State) n => s.countRecord id r.tmpl n) s
      | none => s.countRecord id r.tmpl r.node
    s.enqueue (s.homeOf l e r.inst)
      ⟨uid, r, some id, none, s.absDeadline l.origin dln, neBud e, 0, 0, l.vc, g⟩

/-- Instance i of a launch (R302). -/
def Launch.instRecord (l : Launch) (i : Nat) : Record :=
  ⟨BitVec.ofNat 64 (if l.gang.isNone then l.entry.toNat / 256 * 2 ^ 16 else 0),
    BitVec.ofNat 64 (i * 2 ^ 40 + l.node * 2 ^ 28 + l.tmpl * 2 ^ 16 + l.ctx.toNat * 2 ^ 6), 0, 0,
    l.param, BitVec.ofNat 64 (if l.sv then l.fseq.toNat else 0), 0, 0⟩

/-! ### Reading through a context's map (log 23), gang records (R275) -/

/-- n bytes at a virtual address of a context; none when no present mapping holds them. -/
def State.readVirt (s : State) (x : CtxId) (va n : Nat) : Option Nat :=
  if 2 ^ 56 ≤ va then none
  else match s.present x va with
    | none => none
    | some m => if va + n ≤ m.vbase + 2 ^ pageBits m.psz then some (s.mem.read (m.phys va) n) else none

def noDup (l : List (Nat × Nat)) : Bool := (upto l.length).all fun i => !(l.take i).contains (l[i]?.getD (0, 0))

/-- A gang record; none when it is rejected (R275). -/
def State.gangRecord (s : State) (x : CtxId) (tmpl a : Nat) : Option Gang :=
  match (if a % 128 = 0 then s.readVirt x a 128 else none) with
  | none => none
  | some v =>
    let w0 := v % 2 ^ 64
    let m := bits w0 3 0
    let np := bits w0 20 16
    let node (j : Nat) : Nat := getBytes v (8 + 4 * j) 4
    let pipe (k : Nat) : Nat := getBytes v (40 + 4 * k) 4
    let ps := (upto np).map fun k => (bits (pipe k) 2 0, bits (pipe k) 4 3, bits (pipe k) 10 8, bits (pipe k) 12 11)
    let ns := (upto m).map node
    if bits w0 63 21 ≠ 0 ∨ bits w0 15 4 ≠ 0 ∨ (upto 8).any (fun j => decide (2 ^ 12 ≤ node j))
        ∨ (upto 16).any (fun k => decide (2 ^ 13 ≤ pipe k) || bits (pipe k) 7 5 != 0) ∨ getBytes v 104 24 ≠ 0
        ∨ m = 0 ∨ 8 < m ∨ 16 < np ∨ ps.any (fun p => decide (m ≤ p.1) || decide (m ≤ p.2.2.1))
        ∨ !noDup (ps.map fun p => (p.1, p.2.1)) ∨ !noDup (ps.map fun p => (p.2.2.1, p.2.2.2))
        ∨ ns.any (fun n => decide (s.ncnt x tmpl ≤ n)) then none
    else some ⟨m, ns, ps⟩

/-- The segment addresses of an entry table; none when one is refused (R291). -/
def State.entryTable (s : State) (x : CtxId) (a m : Nat) : Option (List (BitVec 56)) :=
  if a % 8 ≠ 0 then none
  else (upto m).foldl (fun o j =>
    match o, s.readVirt x (a + 8 * j) 8 with
    | some l, some v => if v = 0 ∨ v % 256 ≠ 0 ∨ 2 ^ 56 ≤ v then none else some (l ++ [BitVec.ofNat 56 v])
    | _, _ => none) (some [])

/-- What gang launches take from their record and table. -/
def State.gangOf (s : State) (x : CtxId) (tmpl gang entry : Nat) : Option (Gang × List (BitVec 56)) :=
  match s.gangRecord x tmpl gang with
  | none => none
  | some g => (s.entryTable x entry g.m).map fun l => (g, l)

/-! ### Step 7: the records (R293, R302) -/

/-- A launch creates its instances; with COUNT 0 it waits for its node's release tick. -/
def State.createAll (s : State) (id : Nat) : State :=
  match s.launch id with
  | none => s
  | some l =>
    let g := l.gang.bind fun a => s.gangOf l.ctx l.tmpl a l.entry.toNat
    let node := match g with | some (g, _) => g.nodes.headD 0 | none => l.node
    let l := { l with node := node, created := l.count }
    let e := s.nodeEntry l.ctx l.tmpl node
    if l.count = 0 then
      (s.setLaunch { l with step := .empty }).schedule
        (s.whenTick l.origin ((l.base.toNat + neRoff e) % 2 ^ 32)) (.emptyLaunchComplete id)
    else (upto l.count).foldl (fun s i => s.createRecord id e (l.instRecord i) g) (s.setLaunch { l with step := .live })

/-- The records of a payload in place of the instances (R351). -/
def State.createPlaced (s : State) (id : Nat) (t : Tree) (b : Nat) : State :=
  match s.launch id with
  | none => s
  | some l =>
    let slot := t.payAt b
    let depth := s.nodeDepth t b
    let rs := (upto (s.mem.read (slot + 576) 1 % 16)).map fun i => Record.ofNat (s.mem.read (slot + 64 * i) 64)
    let l := { l with pinned := some (bits (l.pfx) 5 0, b), vc := vcJoin l.vc (Tbl.get [] t.vcs b) }
    if rs.any fun r => decide (s.ncnt l.ctx r.tmpl ≤ r.node) then
      (s.setLaunch { l with created := 0 }).failLaunch id .illopd
    else
      rs.foldl (fun s r =>
        s.createRecord id (s.nodeEntry l.ctx r.tmpl r.node)
          { r.setFlg 6 with cv0 := l.param, cv3 := BitVec.ofNat 64 (depth * t.g) } none)
        (s.setLaunch { l with step := .live, created := rs.length })

/-- The reader a launch's lookups are (R351). -/
def Launch.reader (l : Launch) : Reader := ⟨l.ctx, some l.id, none⟩

/-- The n bytes at an address lie within the launch's lease ranges, whatever is resident (R295, R351). -/
def Launch.covers (l : Launch) (va n : Nat) : Bool :=
  decide (va + n ≤ 2 ^ 56) && (upto ((va + n - 1) / 2 ^ 19 + 1 - va / 2 ^ 19)).all fun i =>
    (leasePerm l.leases (2 ^ 19 * (va / 2 ^ 19 + i))).isSome

/-- Every page of the n bytes at an address has a present mapping. -/
def State.resident (s : State) (x : CtxId) (va n : Nat) : Bool :=
  (upto ((va + n - 1) / 2 ^ 19 + 1 - va / 2 ^ 19)).all fun i =>
    (s.present x (Nat.max va (2 ^ 19 * (va / 2 ^ 19 + i)))).isSome

/-- The refusals of a prefix descriptor (R351). One that is not resident yet at step 1 is read and checked at step 6,
its pages then pinned (log 23). -/
def State.prefixBad (s : State) (l : Launch) : Option Cause :=
  if l.pfx = 0 then none
  else if l.pfx % 64 ≠ 0 then some .illopd
  else if !l.covers l.pfx 64 then some .lease
  else if !s.resident l.ctx l.pfx 64 then none
  else match s.barred l.reader l.pfx 64 false true with
    | some c => some c
    | none =>
      let (_, d) := s.unitReadMany l.reader l.pfx 4
      match findDesc d with
      | none => some .illopd
      | some e =>
        if e.dst ≠ 0 then some .illopd
        else match s.tree e.tree with
          | none => some .illopd
          | some t =>
            if t.own ≠ l.ctx then some .priv
            else if e.n ≠ 0 ∧ !l.covers e.inp (4 * e.n) then some .lease
            else none

/-- Step 6: the lookup of a launch with PFX, and step 7 (R351). Where the lookup meets BRKFULL or an uncorrectable error
nothing of the tree changes; such an error in a descriptor that step 1 could not read refuses the launch (log 23). The
context is charged for what the lookup moves (R380). -/
def State.resumeOrCreate (s : State) (id : Nat) : State :=
  match s.launch id with
  | none => s
  | some l =>
    if l.pfx = 0 then s.createAll id
    else match s.prefixBad l with
      | some c => if c = .eccunc ∧ l.pfxRead then s.createAll id else s.failLaunch id c
      | none =>
        let q := l.reader
        let d := (s.unitReadMany q l.pfx 4).2
        match s.treeFor l.ctx (d % 64), findDesc d with
        | .ok t, some e =>
          if s.findPoisoned t q e true then s.createAll id
          else match s.findOp t q e with
            | (u, .error n) => (if n = 1 then u.chargedTo s l.ctx else s).createAll id
            | (u, .ok b) => ((u.chargedTo s l.ctx).onLaunch id fun l => { l with pfx := e.tree }).createPlaced id t b
        | _, _ => s.createAll id

/-! ### Steps 3 to 5: start, leases, frame (R293, R295, R300, R405) -/

/-- Step 5: origin, base tick, rung and frame number (R300). -/
def State.makeFrame (s : State) (id : Nat) : State :=
  match s.launch id with
  | none => s
  | some l =>
    if !l.sv then s.resumeOrCreate id
    else match (s.settleLadder l.strm.toNat false).stream l.strm.toNat with
      | none => s.failLaunch id .illopd
      | some t =>
        let r := t.rungs[t.rung]?.getD ⟨0, 0, 0, 0, 0⟩
        let s := (s.settleLadder l.strm.toNat false).setStream l.strm.toNat (some { t with fseq := t.fseq + 1 })
        let s := s.setLaunch { l with
          rung := t.rung
          tmpl := r.tmpl
          node := r.snode
          entry := r.entry
          gang := if r.gang = 0 then none else some r.gang
          fseq := t.fseq
          origin := t.origin.toNat
          base := BitVec.ofNat 32 (t.fseq.toNat * t.period.toNat / s.die.ttlen) }
        s.resumeOrCreate id

/-- A launch of a stream at step 5 goes on: at once when no frame of the stream is underway, and otherwise with its tick,
in which such a frame may still change the ladder, since every change of a tick takes effect before the launches
accepted in it (R310, log 22). -/
def State.frameDue (s : State) (id : Nat) : State :=
  match s.launch id with
  | none => s
  | some l =>
    if l.step ≠ .frame then s
    else match s.stream l.strm.toNat with
      | none => s.makeFrame id
      | some t =>
        let o := t.origin.toNat
        if (s.launches.any fun q => q.frameOf l.strm.toNat) && decide (s.tickOf o ≤ l.accepted)
            && decide (s.now < s.tickEnds o) then
          s.schedule (s.tickEnds o) (.launchStartDue id)
        else s.makeFrame id

/-- A launch has come to step 5 (R293, R300). -/
def State.comeToFrame (s : State) (id : Nat) : State :=
  match s.launch id with
  | none => s
  | some l =>
    match (if l.sv then s.stream l.strm.toNat else none) with
    | none => s.makeFrame id
    | some t => (s.setLaunch { l with step := .frame, accepted := s.tickOf t.origin.toNat }).frameDue id

/-- The permissions a launch needs on the n bytes at an address: those of every lease that meets them (R295, R405). -/
def Launch.needs (l : Launch) (a n : Nat) : Nat :=
  let c := l.leases.filter fun e => decide (e.vbase < a + n) && decide (a < e.vbase + e.len)
  boolCode (c.any (·.pr)) + 2 * boolCode (c.any (·.pw)) + 4 * boolCode (c.any (·.pa))

/-- A fault record in the host's ring, for a page of n bytes (R405). -/
def State.faultRecord (s : State) (l : Launch) (x : CtxId) (page n : Nat) : State :=
  let d := s.die
  let v := d.frSeq + 2 ^ 64 * (page + 2 ^ 60 * x.toNat) + 2 ^ 128 * l.ctag.toNat
    + 2 ^ 192 * l.needs page n
  let s := s.writeDie (d.frb.toNat + 32 * (d.frt.toNat % 2 ^ d.frn.toNat)) 32 v
  let s := { s with die := { s.die with frt := d.frt + 1, frSeq := d.frSeq + 1 } }
  s.onLaunch l.id fun l => { l with faultSeqs := l.faultSeqs ++ [d.frSeq], frPages := page :: l.frPages }

def State.frFull (s : State) : Bool := decide (2 ^ s.die.frn.toNat ≤ (s.die.frt - s.die.frh).toNat)

/-- The pages an attempt has a record for already. -/
def State.recorded (s : State) (id p : Nat) : Bool := (s.launch id).any fun l => l.frPages.contains p

/-- One lease walked page by page, from address a: a record for each page that is not resident and has none in this
attempt; the address it stops at when the ring is full (R295, R405). -/
def State.leaseWalk (s : State) (id : Nat) (l : Launch) (e : Lease) : Nat → Nat → State × Option Nat
  | 0, _ => (s, none)
  | n + 1, a =>
    if e.vbase + e.len ≤ a then (s, none)
    else
      let page := match (if s.inWindow l.ctx a then some none else
        match s.mapping l.ctx a with
        | some m => if m.present then some none else some (some (m.vbase, 2 ^ pageBits m.psz))
        | none => some (some (a, 2 ^ 19))) with
        | some p => p
        | none => none
      match page with
      | none => s.leaseWalk id l e n (a + 2 ^ 19)
      | some (p, size) =>
        if s.recorded id p then s.leaseWalk id l e n (a + 2 ^ 19)
        else if s.frFull then (s, some a)
        else (s.faultRecord l l.ctx p size).leaseWalk id l e n (a + 2 ^ 19)

/-- Leases k onwards of a launch, the first from an address. -/
def State.leasesFrom (s : State) (id : Nat) (l : Launch) : Nat → Nat → Option Nat → State × Option (Nat × Nat)
  | 0, _, _ => (s, none)
  | n + 1, k, a =>
    match l.leases[k]? with
    | none => (s, none)
    | some e =>
      match s.leaseWalk id l e (e.len / 2 ^ 19 + 1) (a.getD e.vbase) with
      | (s, some b) => (s, some (k, b))
      | (s, none) => s.leasesFrom id l n (k + 1) none

/-- Step 4: an attempt to find every leased page resident, from where a full ring stopped it (R405, R406). -/
def State.tryLease (s : State) (id : Nat) : State :=
  match s.launch id with
  | none => s
  | some l =>
    let (k, a) := match l.frNext with | some (k, a) => (k, some a) | none => (0, none)
    let (s, stop) := s.leasesFrom id l 17 k a
    let s := s.onLaunch id fun l => { l with step := .lease, frNext := stop }
    match s.launch id with
    | some l => if l.faultSeqs.isEmpty && stop.isNone then s.comeToFrame id else s
    | none => s

/-- A retry by REPLAY, with fresh records (R406). -/
def State.retryLease (s : State) (id : Nat) : State :=
  (s.onLaunch id fun l => { l with faultSeqs := [], frPages := [], frNext := none }).tryLease id

/-- Step 3: the launch goes on once the timer has reached START (R293, R404). -/
def State.tryStart (s : State) (id : Nat) : State :=
  match s.launch id with
  | none => s
  | some l =>
    if l.step ≠ .start then s
    else if s.gt < l.startAt.toNat then s.schedule (s.whenGt l.startAt.toNat) (.launchStartDue id)
    else (s.setLaunch { l with origin := s.gt }).tryLease id

/-- Launches of a context parked on counters. -/
def State.parkedOf (s : State) (x : CtxId) : Nat :=
  (s.launches.filter fun l => l.ctx == x && l.step == .parked).length

/-- Step 2: the launch waits for counter WJ, or holds its command stream (R293). -/
def State.tryPark (s : State) (id : Nat) : State :=
  match s.launch id with
  | none => s
  | some l =>
    match l.wj with
    | some j =>
      let t := s.join j
      if t.value = 0 then (s.setLaunch { l with step := .start, vc := vcJoin l.vc t.vc }).tryStart id
      else if 64 ≤ s.parkedOf l.ctx then s.setLaunch { l with step := .held }
      else (s.setLaunch { l with step := .parked }).setJoin j { t with parked := t.parked ++ [id] }
    | none => (s.setLaunch { l with step := .start }).tryStart id

/-- A held launch of the context tries again: a parked one has left (R293). -/
def State.unhold (s : State) (x : CtxId) : State :=
  match s.launches.find? fun l => l.ctx == x && l.step == .held with
  | some l => (s.tryPark l.id).nextPacket x
  | none => s

/-! ### Step 1: the packet (R291, R293) -/

/-- The packet at the head of a command stream. -/
def State.packet (s : State) (x : CtxId) : Nat :=
  let c := s.ctx x
  s.mem.read (c.csb.toNat + 128 * (c.csh.toNat % 2 ^ c.csn.toNat)) 128

/-- Reserved fields of a packet are zero, and OP is known (R291, R292). -/
def packetOk (v : Nat) : Bool :=
  let w (i : Nat) : Nat := getBytes v (8 * i) 8
  bits (w 0) 63 40 == 0 && bits (w 0) 15 15 == 0 && bits (w 1) 63 25 == 0 && decide (w 4 < 2 ^ 56)
    && decide (w 5 < 2 ^ 56) && bits (w 6) 63 38 == 0 && bits (w 6) 7 5 == 0 && decide (w 8 < 2 ^ 56)
    && decide (w 9 < 2 ^ 56) && getBytes v 80 48 == 0 && decide (bits (w 0) 7 0 < 5)

/-- A launch made from a packet's fields. -/
def launchOf (id : Nat) (x : CtxId) (v : Nat) (vc : Vc) : Launch :=
  let w (i : Nat) : Nat := getBytes v (8 * i) 8
  { id := id, ctx := x, op := bits (w 0) 7 0, tmpl := bits (w 0) 27 16, node := bits (w 0) 39 28,
    strm := BitVec.ofNat 6 (bits (w 0) 14 9), sv := bit (w 0) 8, count := bits (w 1) 24 0,
    param := BitVec.ofNat 64 (w 2), startAt := BitVec.ofNat 64 (w 3), entry := BitVec.ofNat 56 (w 4),
    ltab := w 5 % 2 ^ 56, nl := bits (w 6) 4 0,
    wj := if bit (w 6) 8 then some (bits (w 6) 22 9) else none,
    dj := if bit (w 6) 23 then some (bits (w 6) 37 24) else none,
    ctag := BitVec.ofNat 64 (w 7), pfx := w 8 % 2 ^ 56, pfxRead := false,
    gang := if bits (w 0) 7 0 = 2 then some (w 9 % 2 ^ 56) else none,
    step := .start, accepted := 0, leases := [],
    origin := 0, base := 0, fseq := 0, rung := 0, created := 0, live := 0, cause := none, junder := false,
    deperr := false, late := false, dropped := false, stall := 0, nodes := [], pinned := none, faultSeqs := [],
    frPages := [], frNext := none, vc := vc }

/-- The leases of a launch; none when an entry is malformed (R295). -/
def State.leaseTable (s : State) (l : Launch) : Option (List Lease) :=
  if l.nl ≠ 0 ∧ l.ltab % 64 ≠ 0 then none
  else (upto l.nl).foldl (fun o k =>
    let w0 := s.mem.read (l.ltab + 16 * k) 8
    let n := s.mem.read (l.ltab + 16 * k + 8) 8
    let vb := bits w0 55 0
    match o with
    | none => none
    | some r =>
      if bits w0 63 59 ≠ 0 ∨ 2 ^ 56 ≤ n ∨ vb % 2 ^ 19 ≠ 0 ∨ n = 0 ∨ n % 2 ^ 19 ≠ 0 ∨ 2 ^ 56 < vb + n then none
      else some (r ++ [⟨vb, n, bit w0 56, bit w0 57, bit w0 58⟩])) (some [])

/-- The template part of the check: its rung's for a stream launch (R291, R293, R309). -/
def State.launchBad (s : State) (l : Launch) : Bool :=
  let part (tmpl node entry : Nat) (gang : Option Nat) : Bool :=
    decide (s.ncnt l.ctx tmpl ≤ node) || match gang with
      | some g => (s.gangOf l.ctx tmpl g entry).isNone
      | none => decide (entry % 256 ≠ 0)
  if l.sv then
    l.entry != 0 || l.tmpl != 0 || l.node != 0 ||
    match s.stream l.strm.toNat with
    | none => true
    | some t =>
      if t.ctx ≠ l.ctx then false
      else match t.rungs[t.rung]? with
        | none => true
        | some r => ((l.op == 2) != (r.gang != 0)) || part r.tmpl r.snode r.entry.toNat (if r.gang = 0 then none else some r.gang)
  else part l.tmpl l.node l.entry.toNat l.gang

/-- The first refusal of an accepted launch or gang packet (R293). -/
def State.launchRefusal (s : State) (l : Launch) : Option Cause :=
  let pb := s.prefixBad l
  let foreign := match (if l.sv then s.stream l.strm.toNat else none) with
    | some t => t.ctx != l.ctx
    | none => false
  let other (j : Option Nat) : Bool := match j.bind fun j => (s.join j).own with | some o => o != l.ctx | none => false
  if s.launchBad l || pb == some .illopd then some .illopd
  else if 2 ^ 24 + 1 ≤ l.count then some .launchrange
  else if other l.wj || other l.dj || foreign || pb == some .priv then some .priv
  else pb

/-- Accepts a launch or gang packet (R293). -/
def State.acceptLaunch (s : State) (l : Launch) (v : Nat) : State :=
  let s := { s with launches := s.launches ++ [l] }
  if !packetOk v || decide (16 < l.nl) then s.failLaunch l.id .illopd
  else match s.leaseTable l with
    | none => s.failLaunch l.id .illopd
    | some ls =>
      let l := { l with leases := ls, gang := if l.sv then none else l.gang }
      let l := { l with pfxRead := s.resident l.ctx l.pfx 64 }
      let s := s.setLaunch l
      match s.launchRefusal l with
      | some c => s.failLaunch l.id c
      | none => s.tryPark l.id

/-! ### Streams opened and closed (R309, R352) -/

/-- The rungs of a stream descriptor; none when one is refused (R309). -/
def State.readRungs (s : State) (x : CtxId) (d nr : Nat) : Option (List Rung) :=
  (upto 4).foldl (fun o n =>
    let w := getBytes d (32 + 24 * n) 8
    let entry := getBytes d (40 + 24 * n) 8
    let gang := getBytes d (48 + 24 * n) 8
    match o with
    | none => none
    | some r =>
      if nr ≤ n then if w = 0 ∧ entry = 0 ∧ gang = 0 then some r else none
      else
        let tm := bits w 11 0
        let bad := if gang = 0 then decide (entry = 0 ∨ entry % 256 ≠ 0) else (s.gangOf x tm gang entry).isNone
        if 2 ^ 36 ≤ w ∨ 2 ^ 56 ≤ entry ∨ 2 ^ 56 ≤ gang ∨ s.ncnt x tm ≤ bits w 23 12 ∨ s.ncnt x tm ≤ bits w 35 24 ∨ bad
        then none else some (r ++ [⟨bits w 35 24, bits w 23 12, tm, BitVec.ofNat 56 entry, gang⟩])) (some [])

/-- An encoder option the part supports, from a link block's bytes 14 to 31 (R352, R360). -/
def encoderOk (b : Nat) : Bool :=
  let codec := getBytes b 14 1
  let depth := getBytes b 15 1
  let wid := getBytes b 16 2
  let hgt := getBytes b 18 2
  let rc := getBytes b 20 1
  let qp := getBytes b 21 1
  let kbps := getBytes b 24 4
  decide (codec ≤ 3) && wid % 8 == 0 && hgt % 8 == 0 && decide (64 ≤ wid) && decide (wid ≤ 3840)
    && decide (64 ≤ hgt) && decide (hgt ≤ 2160) &&
  (if codec = 0 then getBytes b 20 12 == 0
   else (depth == 8 || depth == 10) && !(codec == 3 && depth == 10) && decide (rc ≤ 2) &&
    (if rc = 0 then decide (qp ≤ (if codec = 1 then 255 else if depth = 8 then 51 else 63))
     else decide (100 ≤ kbps) && decide (kbps ≤ 400000) && decide (kbps ≤ 60 * getBytes b 28 4)))

/-- A link block's bytes 0 to 47 are acceptable (R352). -/
def linkOk (a b : Nat) : Bool :=
  let nslot := getBytes b 12 1
  let ev := bit b (8 * 13 + 7)
  let vw := getBytes b 32 8
  a % 128 == 0 && bits (getBytes b 13 1) 6 3 == 0 && decide (getBytes b 41 1 < 2) && getBytes b 42 6 == 0
    && (if nslot = 0 then !ev
        else getBytes b 0 8 % 4096 == 0 && getBytes b 8 4 % 4096 == 0 && decide (65536 ≤ getBytes b 8 4)
          && decide (getBytes b 8 4 ≤ 2 ^ 28) && decide (2 ≤ nslot) && decide (nslot ≤ 16) && (!ev || encoderOk b))
    && (vw == 0 || (vw % 2 ^ 25 == 0 && decide (vw < 2 ^ 56) && decide (2 ≤ getBytes b 40 1)
          && decide (getBytes b 40 1 ≤ 64)))

/-- The stream a descriptor d and a link block b (0 without one) open; none when it is refused. -/
def State.newStream (s : State) (x : CtxId) (d : Nat) : Option Stream :=
  let nr := getBytes d 16 1
  let climb := getBytes d 17 1
  let rung0 := getBytes d 18 1
  let link := getBytes d 24 8
  let b := if link = 0 then 0 else s.mem.read link 128
  let nslot := getBytes b 12 1
  let vw := getBytes b 32 8
  let rst := bit b (8 * 41)
  let img (i : Nat) : BitVec 32 := if rst then BitVec.ofNat 32 (getBytes b (64 + 4 * i) 4) else 0
  if getBytes d 19 5 ≠ 0 ∨ getBytes d 8 4 = 0 ∨ climb = 0 ∨ nr = 0 ∨ 4 < nr ∨ nr ≤ rung0 ∨ !linkOk link b then none
  else match s.readRungs x d nr with
    | none => none
    | some rungs => some {
        ctx := x, origin := BitVec.ofNat 64 d, period := BitVec.ofNat 32 (getBytes d 8 4),
        dloff := BitVec.ofNat 32 (getBytes d 12 4), climb := climb, rungs := rungs, rung := rung0, ontime := 0,
        ladder := [], fseq := 0, link := link, obase := getBytes b 0 8, slotsz := getBytes b 8 4,
        slots := List.replicate nslot ⟨.free, 0, 0, 0, 0, [], 0, false, []⟩, ev := bit b (8 * 13 + 7),
        enc := ⟨getBytes b 13 1 % 8, Nat.mod_lt _ (by decide)⟩, codec := getBytes b 14 1, depth := getBytes b 15 1,
        wid := getBytes b 16 2, hgt := getBytes b 18 2, gop := getBytes b 22 2, coded := 0, acqc := img 0,
        donec := img 1, relc := img 2, nseq := img 3, waiters := [], vw := vw, cap := if vw = 0 then 0 else getBytes b 40 1,
        win := [], appc := 0, tdrop := 0, ferr := 0, w3seq := 0, closing := none,
        closeFrom := none, vc := [] }

/-- Accepts an open (R309, R352). -/
def State.acceptOpen (s : State) (l : Launch) (v : Nat) : State :=
  let s := { s with launches := s.launches ++ [{ l with sv := false }] }
  let n := l.strm.toNat
  match (if packetOk v && (s.stream n).isNone && l.param.toNat % 128 == 0
      then (s.readVirt l.ctx l.param.toNat 128).bind (s.newStream l.ctx) else none) with
  | none => s.failLaunch l.id .illopd
  | some t => ((s.setStream n (some t)).syncLink n).completeLaunch l.id

/-- Entries of a stream are still to be taken by its encoder, or an ended frame is to be coded (R352, R357). -/
def State.w3Pending (s : State) (n : Nat) : Bool :=
  s.encs.toList.any fun e => (e.queue.any fun q => q.1.toNat == n) || (e.ended.any fun q => q.1.toNat == n)

/-- Tiles of a frame that never ended, and a tile half taken, count in TDROP at the close (R352). -/
def State.lostTiles (s : State) (n : Nat) (t : Stream) : Nat :=
  (t.slots.filter fun k => k.st == .prod).foldl (fun a k => a + k.tiles) 0
    + (s.encs.toList.map fun e => (e.takes.filter fun k => k.strm.toNat == n && k.use).length).foldl (· + ·) 0

/-- A close is carried out once nothing of the stream is left, and no access through a handle to one of its window pages
is outstanding (R159, R352). -/
def State.finishClose (s : State) (n : Nat) : State :=
  match s.stream n with
  | none => s
  | some t =>
    match t.closing with
    | none => s
    | some id =>
      let s := s.onStream n fun t => { t with closeFrom := t.closeFrom.or (some s.nextId) }
      if s.streamBusy n || s.w3Pending n then s.onStream n fun t => { t with closeFrom := none }
      else if t.win.any fun w => s.pageBusy t.ctx (t.vw + 2 ^ 19 * w.pos) (t.closeFrom.getD s.nextId) then
        s.schedule (s.now + 5) (.streamClose t.ctx)
      else
        let s := s.settleLadder n true
        let lost := s.lostTiles n t
        let s := t.win.foldl (fun s w => (s.revokePage t.ctx (t.vw + 2 ^ 19 * w.pos)).dropPage w.pa) s
        let s := s.onStream n fun t => { t with
          win := []
          tdrop := t.tdrop + BitVec.ofNat 32 lost
          waiters := []
          relc := t.relc + BitVec.ofNat 32 (t.slots.filter fun k => k.st != .free).length
          slots := t.slots.map (fun k => { k with st := .free }) }
        let s := t.waiters.foldl (fun s w => if w.1.released.isNone then s else s.requeue w.2.1 w.1 t.vc) s
        let s := (s.syncLink n).setStream n none
        let s : State := { s with encs := s.encs.map (fun e => { e with
          takes := e.takes.filter (fun k => k.strm.toNat != n)
          skip := e.skip.filter (fun k => k.toNat != n) }) }
        let s := s.completeLaunch id
        if s.streams.any fun e => match e.2 with | some u => u.ctx == t.ctx | none => false then s
        else s.harvestCtx t.ctx

/-- Accepts a close: it waits for the stream's frames (R292, R309, R352). -/
def State.acceptClose (s : State) (l : Launch) (v : Nat) : State :=
  let n := l.strm.toNat
  let l := { l with sv := false, step := .closing }
  let s := { s with launches := s.launches ++ [l] }
  if !packetOk v then s.failLaunch l.id .illopd
  else match s.stream n with
    | none => s.failLaunch l.id .illopd
    | some t =>
      if t.ctx ≠ l.ctx then s.failLaunch l.id .priv
      else if t.closing.isSome then s.failLaunch l.id .illopd
      else (s.setStream n (some { t with closing := some l.id })).finishClose n

/-! ### Steps -/

/-- The packet at the head is read and accepted by f when its OP is one of a step's (R290); the next packet
follows. -/
def State.takePacket (s : State) (x : CtxId) (ok : Nat → Bool) (f : State → Launch → Nat → State) : State :=
  let c := s.ctx x
  let v := s.packet x
  if !c.ena || c.csh == c.cst || !c.heldC.isEmpty || s.die.stopped || !s.die.powered || !ok (v % 256)
      || (s.launches.any fun l => l.ctx == x && l.step == .held) then s
  else
    let s := s.onCtx x fun c => { c with csh := c.csh + 1 }
    let (id, s) := s.takeId
    (f s (launchOf id x v s.hostVc) v).nextPacket x

/-- OP 0: completes at once, with no other effect (R292). -/
def acceptNop (s : State) (l : Launch) (v : Nat) : State :=
  s.complete { l with sv := false } 0 (if packetOk v then 0 else Cause.illopd.code)

/-- A nop packet (R292). -/
def execLaunchNop (x : CtxId) (s : State) : Host.Outcome State Fault Refusal :=
  .next (s.takePacket x (· == 0) acceptNop)
/-- A launch packet, or one of an unknown operation, which is refused (R292, R293). -/
def execLaunch (x : CtxId) (s : State) : Host.Outcome State Fault Refusal :=
  .next (s.takePacket x (fun op => op == 1 || decide (4 < op)) State.acceptLaunch)
/-- A gang packet (R276, R293). -/
def execLaunchGang (x : CtxId) (s : State) : Host.Outcome State Fault Refusal :=
  .next (s.takePacket x (· == 2) State.acceptLaunch)
/-- A stream opens (R309, R352). -/
def execStreamOpen (x : CtxId) (s : State) : Host.Outcome State Fault Refusal :=
  .next (s.takePacket x (· == 3) State.acceptOpen)
/-- A stream's close is accepted, and closes of the context that wait for nothing more are carried out (R352). -/
def execStreamClose (x : CtxId) (s : State) : Host.Outcome State Fault Refusal :=
  let s := s.takePacket x (· == 4) State.acceptClose
  .next ((upto 64).foldl (fun s n =>
    match s.stream n with
    | some t => if t.ctx = x then s.finishClose n else s
    | none => s) s)

/-- A parked launch whose counter has reached zero goes on, or completes with DEPERR (R298). -/
def execLaunchUnpark (id : Nat) (s : State) : Host.Outcome State Fault Refusal :=
  match s.launch id with
  | none => .next s
  | some l =>
    if l.step != .parked || (match l.wj with | some j => (s.join j).parked.contains id | none => true) then .next s
    else
      let s := if l.deperr then s.completeLaunch id else (s.setLaunch { l with step := .start }).tryStart id
      .next (s.unhold l.ctx)

/-- The timer reaches a launch's START, or a launch at step 5 of a stream waits no longer (R293, R310, R404). -/
def execLaunchStartDue (id : Nat) (s : State) : Host.Outcome State Fault Refusal := .next ((s.tryStart id).frameDue id)

/-- A launch with COUNT 0 completes at its node's release tick (R293). -/
def execEmptyLaunchComplete (id : Nat) (s : State) : Host.Outcome State Fault Refusal :=
  match s.launch id with
  | none => .next s
  | some l =>
    let t := (l.base.toNat + neRoff (s.nodeEntry l.ctx l.tmpl l.node)) % 2 ^ 32
    if l.step ≠ .empty then .next s
    else if serialLt 32 (s.tick l.origin) t then .next (s.schedule (s.whenTick l.origin t) (.emptyLaunchComplete id))
    else .next (s.completeLaunch id)

/-- Posted writes of the links take effect in their order: one behind a write that waits for a home in retention waits
with it (R286, R329, R330). -/
def State.takeTurn (s : State) (i : Instr) (f : State → State) : State :=
  match s.die.posted with
  | [] => f s
  | h :: r =>
    if h = i then
      let s := f { s with die := { s.die with posted := r } }
      match r with
      | j :: _ => s.schedule s.now j
      | [] => s
    else { s with die := { s.die with posted := s.die.posted ++ [i] } }

/-- Packets up to a tail may be read. -/
def State.doorbell (s : State) (x : CtxId) (tail : BitVec 32) : State :=
  (s.onCtx x fun c => { c with cst := tail }).nextPacket x

/-- The host's doorbell, behind the host writes that came before it (R289, R290, R330). -/
def execCommandDoorbell (x : CtxId) (tail : BitVec 32) (s : State) : Host.Outcome State Fault Refusal :=
  .next (s.takeTurn (.commandDoorbell x tail) fun s => s.doorbell x tail)

end Sys2Proof.Machine
end

