-- ==== Sys2Proof/Machine/Video.lean ====
section
/-! DEFINITION. Frame rings, the encoders and the decoders (R353 to R361, R367, R411). -/

namespace Sys2Proof.Machine

/-! ### Rings (R353 to R356) -/

def Stream.setSlot (t : Stream) (k : Nat) (f : RSlot → RSlot) : Stream :=
  { t with slots := (upto t.slots.length).zipWith (fun i x => if i = k then f x else x) t.slots }

/-- The state of a ring slot; one past the ring is free. -/
def Stream.slotSt (t : Stream) (k : Nat) : SlotSt := match t.slots[k]? with | some x => x.st | none => .free

/-- The clock of the release that freed a ring slot (R356). -/
def Stream.slotVc (t : Stream) (k : Nat) : Vc := match t.slots[k]? with | some x => x.vc | none => []

/-- The slot the next RINGACQ claims (R353). -/
def Stream.nextSlot (t : Stream) : Nat := t.acqc.toNat % t.slots.length

/-- The checks every ring trigger makes on stream n: PRIV, then RINGSTATE (R354). -/
def ringStream (s : State) (n : Nat) (f : Stream → Commit) : Commit :=
  match s.stream n with
  | none => .raise .ringstate none
  | some t =>
    if t.ctx ≠ s.me.ctx then .raise .priv none
    else if t.slots.isEmpty then .raise .ringstate none else f t

/-- READY slot named by a release, with the RSEQ it names (R354). -/
def Stream.releasable (t : Stream) (v : Nat) : Option Nat :=
  let k := bits v 11 8
  match t.slots[k]? with
  | some x => if x.st = .ready ∧ x.rseq.toNat = bits v 63 32 then some k else none
  | none => none

/-- A slot released, with the clock of its release: strands that wait for it go back to their queues (R355, R356). A
strand still on its core finds itself released when it leaves. -/
def State.freeSlot (s : State) (n k : Nat) (vc : Vc) : State :=
  match s.stream n with
  | none => s
  | some t =>
    let (mine, rest) := t.waiters.partition fun w => w.2.2 == k
    let s := s.setStream n (some { t.setSlot k (fun x => { x with st := .free, vc := vc }) with
      relc := t.relc + 1, waiters := rest })
    (mine.foldl (fun s w => if w.1.released.isNone then s else s.requeue w.2.1 w.1 vc) s).syncLink n

/-- A claim: the slot becomes PROD, its header's DONE clears (R354, R361). -/
def State.claimSlot (s : State) (n k : Nat) : State :=
  match s.stream n with
  | none => s
  | some t =>
    let l := (s.me.run.bind (·.launch)).bind s.launch
    let (f, r) := match l with | some l => if l.sv then (l.fseq, l.rung) else (0, 0) | none => (0, 0)
    let s := s.setStream n (some { t.setSlot k (fun _ => ⟨.prod, t.nseq, f, r, 0, [], 0, false, []⟩) with
      acqc := t.acqc + 1, nseq := t.nseq + 1 })
    let a := t.obase + t.slotsz * k + 24
    (s.writeDie a 1 (s.mem.read a 1 / 2 * 2)).syncLink n

/-- Every other slot of the bundle is a null move and its kind is 0 (R355). -/
def aloneInBundle (s : State) : Bool :=
  let k := s.me
  let b := match k.segment with | some g => g.bundles[k.pc.bix.toNat]?.getD 0 | none => 0
  hdrKind k.bs.hdr == 0 && (upto 8).all fun i =>
    i == k.bs.slot || bits b.toNat (64 + 24 * i + 12) (64 + 24 * i + 4) == 0x1FF || k.segment.isNone

/-- RINGACQ of a SUSP 1 strand on a full ring: it leaves its core at bundle end, enrolled for the slot (R355). -/
def State.ringSuspend (s : State) (n k : Nat) : State :=
  let q : QRec := match s.me.run with
    | some r => ⟨r.uid, r.rcd, r.launch, none, none, 0, 0, 0, r.vc, none⟩
    | none => ⟨0, Record.ofNat 0, none, none, none, 0, 0, 0, [], none⟩
  let s := s.onStream n fun t => { t with waiters := t.waiters ++ [(q, clusterOf s.cur, k)] }
  s.onMe fun c => { c with bs := { c.bs with leave := some (.ring (BitVec.ofNat 6 n) k), branch := some c.pc } }

def commitRingacq (keep : Bool) (v : V512) (s : State) : Commit :=
  let src := sval v
  let n := src % 64
  let susp := bit src 8
  let k := s.me
  reportFirst s false <|
  if bits src 7 6 ≠ 0 ∨ 2 ^ 9 ≤ src then .raise .illopd none
  else withDest s .s keep .qxTo fun _ =>
    if susp && !aloneInBundle s then .raise .illopd none
    else if susp && !k.loops.isEmpty then .raise .loopstk none
    else if susp && (k.ui.active || (k.run.bind (·.gang)).isSome) then .raise .illopd none
    else ringStream s n fun t =>
        let i := t.nextSlot
        if t.slotSt i ≠ .free then if susp then .ok (s.ringSuspend n i) else .freeze .pipe
        else
          let s := (s.selfInvalidate s.cur).acquireVc s.cur (t.slotVc i)
          deliver (s.claimSlot n i) .qx .s keep .qxTo (BitVec.ofNat 512 (i + 2 ^ 32 * t.nseq.toNat)) 0 6 none

def commitRingrel (v : V512) (s : State) : Commit :=
  let src := sval v
  let n := src % 64
  kvRelease s fun s =>
  if bits src 7 6 ≠ 0 ∨ bits src 31 12 ≠ 0 then .raise .illopd none
  else ringStream s n fun t =>
    match t.releasable src with
    | none => .raise .ringstate none
    | some k =>
      let (vc, s) := s.eagerRelease
      let s := s.freeSlot n k vc
      deliver s .qx .latch true .qxTo 0 0 4 none

/-- What RINGST reads (R354). -/
def Stream.ringField (t : Stream) : RingField → Nat
  | .prod => t.acqc.toNat
  | .cons => t.donec.toNat
  | .free => (t.slots.filter fun x => x.st == .free).length

def commitRingst (f : RingField) (keep : Bool) (v : V512) (s : State) : Commit :=
  let src := sval v
  if 64 ≤ src then .raise .illopd none
  else withDest s .s keep .qxTo fun _ => ringStream s src fun t =>
    deliver s .qx .s keep .qxTo (BitVec.ofNat 512 (t.ringField f)) 0 4 none

/-! ### Encoders (R357 to R361, R411) -/

def State.enc (s : State) (e : Fin 8) : Encoder := s.encs[e]

def State.onEnc (s : State) (e : Fin 8) (f : Encoder → Encoder) : State :=
  { s with encs := s.encs.set e.val (f (s.enc e)) e.isLt }

/-- The header of a pixel tile (R358). -/
structure TileHdr where
  rseq : Nat
  x : Nat
  y : Nat
  w : Nat
  h : Nat
  last : Bool
  bps : Nat
  plane : Nat
deriving DecidableEq, Repr

/-- A tile header; none when a reserved bit is set or PLANE is 3 (R358). -/
def tileHdr (v : Nat) : Option TileHdr :=
  let b (i : Nat) : Nat := getBytes v i 1
  if 64 ≤ b 8 ∨ 64 ≤ b 9 ∨ bits (b 10) 6 5 ≠ 0 ∨ bits (b 10) 3 2 ≠ 0 ∨ b 11 ≠ 0 ∨ getBytes v 14 2 ≠ 0 ∨ b 10 % 4 = 3
  then none
  else some ⟨getBytes v 0 4, getBytes v 4 2, getBytes v 6 2, b 8 + 1, b 9 + 1, bit (b 10) 7, bits (b 10) 4 4, b 10 % 4⟩

/-- Bytes a tile fills before its padding (R358). -/
def TileHdr.bytes (h : TileHdr) : Nat := 16 + h.w * h.h * (1 + h.bps)

/-- The frame of a slot has ended and awaits coding. -/
def State.frameEnded (s : State) (t : Stream) (n k : Nat) : Bool := (s.enc t.enc).ended.any fun e => e.1.toNat == n && e.2 == k

/-- The slot takes the tile: PROD with its RSEQ, its frame not ended, and in modes 1 to 3 inside its plane with
samples of the stream's depth (R358). -/
def State.tileOk (s : State) (t : Stream) (n : Nat) (h : TileHdr) : Bool :=
  let k := h.rseq % t.slots.length
  match t.slots[k]? with
  | none => false
  | some x =>
    let d := if h.plane = 0 then 1 else 2
    x.st == .prod && x.rseq.toNat == h.rseq && !s.frameEnded t n k &&
      (t.codec == 0 || (decide (h.x + h.w ≤ t.wid / d) && decide (h.y + h.h ≤ t.hgt / d)
        && h.bps == boolCode (t.depth == 10)))

/-- The tiles taken cover every sample of the three planes exactly once (R359). -/
def covered (t : Stream) (l : List Tile) : Bool :=
  let area := (l.map fun e => e.w * e.h).foldl (· + ·) 0
  let apart (a b : Tile) : Bool :=
    a.plane != b.plane || decide (a.x + a.w ≤ b.x) || decide (b.x + b.w ≤ a.x)
      || decide (a.y + a.h ≤ b.y) || decide (b.y + b.h ≤ a.y)
  area == t.wid * t.hgt * 3 / 2 && (upto l.length).all fun i =>
    (upto i).all fun j => match l[i]?, l[j]? with | some a, some b => apart a b | _, _ => true

/-- A slot becomes READY: its header is written last, at system scope (R361). -/
def State.slotReady (s : State) (n k len : Nat) (key ovf err : Bool) : State :=
  match s.stream n with
  | none => s
  | some t =>
    match t.slots[k]? with
    | none => s
    | some x =>
      let v := x.rseq.toNat + 2 ^ 32 * x.fseq.toNat + 2 ^ 64 * len + 2 ^ 96 * x.tiles + 2 ^ 128 * (s.gt % 2 ^ 64)
        + 2 ^ 192 * (1 + 2 * boolCode err + 4 * boolCode ovf + 8 * boolCode key + 16 * x.rung)
      let s := s.writeDie (t.obase + t.slotsz * k) 64 v
      let s := s.setStream n (some { t.setSlot k (fun x => { x with st := .ready }) with
        donec := t.donec + 1, ferr := t.ferr + BitVec.ofNat 32 (boolCode err) })
      s.syncLink n

/-- Time the coding of a luma sample takes when no delay is listed: the guide's 498 million a second (log 3). -/
def guideCoding : Nat := 54

/-- The coding of the encoder's first ended frame is under way. -/
def State.startCoding (s : State) (e : Fin 8) : State :=
  let size := match (s.enc e).ended with
    | (strm, _) :: _ => (match s.stream strm.toNat with | some t => t.wid * t.hgt | none => 0)
    | [] => 0
  let (d, s) := s.takeDelay (guideCoding * size)
  s.schedule (s.now + d) (.frameCoded e)

/-- A tile with LAST ends its frame (R359, R411). -/
def State.endFrame (s : State) (e : Fin 8) (strm : StrmId) (k : Nat) : State :=
  let n := strm.toNat
  match s.stream n with
  | none => s
  | some t =>
    match t.slots[k]? with
    | none => s
    | some x =>
      if t.codec = 0 then s.slotReady n k x.written false x.ovf x.ovf
      else if !covered t x.taken then s.slotReady n k 0 false false true
      else
        let first := (s.enc e).ended.isEmpty
        let s := s.onEnc e fun c => { c with ended := c.ended ++ [(strm, k)] }
        if first then s.startCoding e else s

/-- A whole tile taken and used (R359). -/
def State.useTile (s : State) (e : Fin 8) (strm : StrmId) (h : TileHdr) (data : Nat) : State :=
  let n := strm.toNat
  match s.stream n with
  | none => s
  | some t =>
    let k := h.rseq % t.slots.length
    let x := t.slots[k]?.getD ⟨.free, 0, 0, 0, 0, [], 0, false, []⟩
    let s : State :=
      if t.codec = 0 then
        let len := (h.bytes + 15) / 16 * 16
        let put := Nat.min len (t.slotsz - 64 - x.written)
        let s := s.writeDie (t.obase + t.slotsz * k + 64 + x.written) put (data % 2 ^ (8 * h.bytes))
        s.onStream n fun t => t.setSlot k fun x => { x with
          tiles := x.tiles + 1, written := x.written + put, ovf := x.ovf || decide (put < len) }
      else s.onStream n fun t => t.setSlot k fun x => { x with
        tiles := x.tiles + 1
        taken := x.taken ++ [⟨h.plane, h.x, h.y, h.w, h.h, getBytes data 16 (h.bytes - 16)⟩] }
    if h.last then s.endFrame e strm k else s

/-- A discarded tile (R358). -/
def State.dropTile (s : State) (n : Nat) : State := (s.onStream n fun t => { t with tdrop := t.tdrop + 1 }).syncLink n

/-- An entry taken by its encoder (R358). -/
def State.takeEntry (s : State) (e : Fin 8) (strm : StrmId) (d : V512) : State :=
  let n := strm.toNat
  let c := s.enc e
  match c.takes.find? fun k => k.strm == strm with
  | some k =>
    let l := k.data ++ [d]
    let rest := c.takes.filter fun k => k.strm != strm
    if k.need = 1 then
      let s := s.onEnc e fun c => { c with takes := rest }
      let v := packNat 512 (l.map (·.toNat))
      match tileHdr v with
      | some h => if k.use then s.useTile e strm h v else s
      | none => s
    else s.onEnc e fun c => { c with takes := rest ++ [{ k with need := k.need - 1, data := l }] }
  | none =>
    match s.stream n with
    | none => s
    | some t =>
      match tileHdr d.toNat with
      | none => if c.skip.contains strm then s else (s.dropTile n).onEnc e fun c => { c with skip := c.skip ++ [strm] }
      | some h =>
        let s := s.onEnc e fun c => { c with skip := c.skip.filter fun k => k != strm }
        let ok := s.tileOk t n h
        let s := if ok then s else s.dropTile n
        let need := ceilDiv h.bytes 64
        if need = 1 then if ok then s.useTile e strm h d.toNat else s
        else s.onEnc e fun c => { c with takes := c.takes ++ [⟨strm, d.toNat % 2 ^ 128, need - 1, [d], ok⟩] }

/-- A close that waits may go on (R352). -/
def State.closeCheck (s : State) (n : Nat) : State :=
  match s.stream n with
  | some t => if t.closing.isSome then s.schedule s.now (.streamClose t.ctx) else s
  | none => s

/-- The encoder takes the entry at the head of its queue, once it has arrived, while fewer than four ended
frames await coding (R411). -/
def State.encoderTake (s : State) (e : Fin 8) : State :=
  let c := s.enc e
  match c.queue with
  | (strm, q, true) :: r =>
    if 4 ≤ c.ended.length then s
    else
      let s := s.onEnc e fun c => { c with queue := r }
      let s := (s.takeEntry e strm q.data).closeCheck strm.toNat
      match r with
      | (_, _, true) :: _ => s.schedule s.now (.encoderTakeEntry e)
      | _ => s
  | _ => s

/-- The oldest entry in flight arrives at the queue (R357). -/
def arriveOne : List (StrmId × QEntry × Bool) → List (StrmId × QEntry × Bool)
  | [] => []
  | (n, q, true) :: r => (n, q, true) :: arriveOne r
  | (n, q, false) :: r => (n, q, true) :: r

/-- The frame of the frame store as the coding of it sees it: by plane, place and size its samples (R411). -/
def frameKey (l : List Tile) : List (List Nat) := l.map fun t => [t.plane, t.x, t.y, t.w, t.h, t.samples]

/-- A number in the variable-length form of an OBU's size field; at most n bytes. PRESUMED (log 11). -/
def leb128 : Nat → Nat → List Byte
  | 0, _ => []
  | n + 1, v => if v < 128 then [BitVec.ofNat 8 v] else BitVec.ofNat 8 (128 + v % 128) :: leb128 n (v / 128)

/-- The units of a frame's bitstream in order, each by its first bytes: a temporal delimiter and, before a key frame, a
sequence header, in AV1; VPS, SPS and PPS, or SPS and PPS, before an IDR picture in an Annex B stream (R360). The bytes
are those of the published codecs. PRESUMED (log 11). -/
def codecUnits (codec : Nat) (key : Bool) : List (List Byte) :=
  let nal (l : List Byte) : List Byte := [0, 0, 0, 1] ++ l
  if codec = 1 then (if key then [[0x0A]] else []) ++ [[0x32]]
  else if codec = 2 then
    (if key then [nal [0x40, 1], nal [0x42, 1], nal [0x44, 1], nal [0x26, 1]] else [nal [0x02, 1]])
  else (if key then [nal [0x67], nal [0x68], nal [0x65]] else [nal [0x41]])

/-- The bytes of unit i of an encoding: its first bytes, in AV1 its size, and an open payload of open length (R360,
log 11). -/
def unitBytes (codec n i : Nat) (frame : List (List Nat)) (first : List Byte) : List Byte :=
  let len := Config.codecLength n i frame
  first ++ (if codec = 1 then leb128 5 (len % 2 ^ 32) else []) ++ (upto len).map (Config.codecByte n i frame)

/-- The bitstream of encoding number n of a frame (R360). -/
def codecStream (codec : Nat) (key : Bool) (n : Nat) (frame : List (List Nat)) : List Byte :=
  (if codec = 1 then [0x12, 0] else [])
    ++ ((codecUnits codec key).zipIdx.flatMap fun e => unitBytes codec n e.2 frame e.1)

/-- The oldest ended frame of an encoder is coded (R360, R361). -/
def State.codeFrame (s : State) (e : Fin 8) : State :=
  match (s.enc e).ended with
  | [] => s
  | (strm, k) :: r =>
    let n := strm.toNat
    let s := s.onEnc e fun c => { c with ended := r }
    let s : State := match s.stream n with
      | none => s
      | some t =>
        let room := t.slotsz - 64
        let key := if t.gop = 0 then t.coded == 0 else t.coded % t.gop == 0
        let frame := match t.slots[k]? with | some x => frameKey x.taken | none => []
        let out := codecStream t.codec key s.free frame
        let long := decide (room < out.length)
        let put := Nat.min out.length room
        let s := { s.writeDie (t.obase + t.slotsz * k + 64) put (ofBytes (out.take room)) with free := s.free + 1 }
        let s := s.onStream n fun t => { t.setSlot k (fun x => { x with taken := [] }) with coded := t.coded + 1 }
        s.slotReady n k put key long long
    let s := (s.schedule s.now (.encoderTakeEntry e)).closeCheck n
    if r.isEmpty then s else s.startCoding e

/-! ### Decoders (R367) -/

/-- Time a decode job takes when no delay is listed: a millisecond (log 3). -/
def guideDecode : Nat := 27000000

/-- A context's next decode job that no decoder has taken: its index. -/
def State.nextJob (s : State) (x : CtxId) : Option (BitVec 32) :=
  let c := s.ctx x
  let busy := (s.decs.toList.filter fun d => match d with | some (y, _) => y == x | none => false).length
  let i := c.djh + BitVec.ofNat 32 busy
  if c.djb ≠ 0 ∧ busy < (c.djt - c.djh).toNat then some i else none

def State.jobAddr (s : State) (x : CtxId) (i : Nat) : Nat :=
  (s.ctx x).djb.toNat + 64 * (i % 2 ^ (s.ctx x).djn.toNat)

/-- A job goes to the first free decoder (R367). -/
def State.planDecode (s : State) : State :=
  match (upto 4).find? fun i => match s.decs[i]? with | some none => true | _ => false with
  | none => s
  | some d =>
    match (upto 16).find? fun x => (s.nextJob (BitVec.ofNat 4 x)).isSome with
    | some x => s.schedule s.now (.decodeJob ⟨d % 4, Nat.mod_lt _ (by decide)⟩ (BitVec.ofNat 4 x))
    | none => s

/-- A job that no decoder accepts: a codec outside 1 to 3, a pitch or a sample size out of range, or a reserved field
set. -/
def State.jobBad (s : State) (a : Nat) : Bool :=
  let codec := s.mem.read (a + 12) 1
  let size := s.mem.read (a + 28) 1
  codec == 0 || decide (3 < codec) || s.mem.read (a + 24) 4 % 64 != 0 || size == 0 || decide (2 < size)
    || s.mem.read (a + 13) 3 != 0 || s.mem.read (a + 29) 3 != 0

/-- The bitstream of a job. -/
def State.jobStream (s : State) (a : Nat) : List Byte :=
  toBytes (s.mem.read (a + 8) 4) (s.mem.read (s.mem.read a 8) (s.mem.read (a + 8) 4))

/-- A decoder takes a context's next job and its bitstream; it ends some time later. -/
def State.startDecode (s : State) (d : Fin 4) (x : CtxId) : State :=
  match s.decs[d], s.nextJob x with
  | none, some i =>
    let s := State.planDecode { s with decs := s.decs.set d.val (some (x, i.toNat)) }
    let (t, s) := s.takeDelay guideDecode
    let a := s.jobAddr x i.toNat
    s.schedule (s.now + t) (.decodeJobDone d (s.mem.read (a + 12) 1) (s.jobStream a) (s.jobBad a))
  | _, _ => s

/-- Rows of a plane written from an address on, a pitch apart: row r holds w samples of n bytes (R367). -/
def State.writePlane (s : State) (a pitch w h n : Nat) (sample : Nat → Nat → Nat) : State :=
  (upto h).foldl (fun s r =>
    s.writeDie (a + pitch * r) (n * w) (packNat (8 * n) ((upto w).map fun c => sample c r))) s

/-- Up to the next 4 KiB boundary. -/
def nextPage (a : Nat) : Nat := (a + 4095) / 4096 * 4096

/-- Frame number f that a decoder puts out at an address: three planes in turn, each from a 4 KiB boundary, and where the
next frame goes. Pictures and sizes are open functions of the bitstream; chroma rows have the luma pitch and frames follow
one another (R367, log 11). -/
def State.writeFrame (s : State) (codec : Nat) (bs : List Byte) (pitch n : Nat) (a f : Nat) : State × Nat :=
  let (w, h) := Config.decodedSize codec bs
  let b := nextPage (a + pitch * h)
  let c := nextPage (b + pitch * (h / 2))
  let p (i : Nat) : Nat → Nat → Nat := fun x y => Config.decodedSample codec bs f i x y
  ((((s.writePlane a pitch w h n (p 0)).writePlane b pitch (w / 2) (h / 2) n (p 1)).writePlane c pitch (w / 2) (h / 2) n
    (p 2)), nextPage (c + pitch * (h / 2)))

/-- A decoder ends its job: the frames of its bitstream, then the status word, then DJH (R367). What they hold and whether
the bitstream is decoded without error is an open function of it (log 11). -/
def State.endDecode (s : State) (d : Fin 4) (codec : Nat) (bs : List Byte) (bad : Bool) : State :=
  match s.decs[d] with
  | none => s
  | some (x, i) =>
    let a := s.jobAddr x i
    let frames := if bad then 0 else Config.decodedFrames codec bs % 2 ^ 32
    let s := ((upto frames).foldl (fun (p : State × Nat) f =>
      p.1.writeFrame codec bs (s.mem.read (a + 24) 4) (s.mem.read (a + 28) 1) p.2 f) (s, nextPage (s.mem.read (a + 16) 8))).1
    let s := s.writeDie (a + 40) 8 (1 + 2 * boolCode (bad || Config.decodedBad codec bs) + 2 ^ 32 * frames)
    let s := s.onCtx x fun c => { c with djh := c.djh + 1 }
    State.planDecode { s with decs := s.decs.set d.val none }

/-! ### Steps -/

/-- RINGACQ (R354, R355). -/
def execRingacq (m : Mv) (s : State) : Host.Outcome State Fault Refusal := runMove (.ringacq m) (commitRingacq m.k) s
/-- RINGREL (R354, R356). -/
def execRingrel (m : Mv) (s : State) : Host.Outcome State Fault Refusal := runMove (.ringrel m) commitRingrel s
/-- RINGST (R354). -/
def execRingst (f : RingField) (m : Mv) (s : State) : Host.Outcome State Fault Refusal :=
  runMove (.ringst f m) (commitRingst f m.k) s

/-- The host releases a slot of a stream through RREL (R356). -/
def execRrel (strm : StrmId) (v : W64) (s : State) : Host.Outcome State Fault Refusal :=
  let n := strm.toNat
  match s.stream n with
  | none => .next s
  | some t =>
    if bits v.toNat 7 6 ≠ 0 ∨ bits v.toNat 31 12 ≠ 0 then .next s
    else match t.releasable v.toNat with
      | none => .next s
      | some k => .next (s.freeSlot n k s.hostVc)

/-- An entry reaches an encoder's queue (R357). -/
def execEncoderEntryArrive (e : Fin 8) (s : State) : Host.Outcome State Fault Refusal :=
  .next ((s.onEnc e fun c => { c with queue := arriveOne c.queue }).schedule s.now (.encoderTakeEntry e))
/-- An encoder takes an entry (R358, R411). -/
def execEncoderTakeEntry (e : Fin 8) (s : State) : Host.Outcome State Fault Refusal := .next (s.encoderTake e)
/-- An encoder has coded a frame (R360, R361). -/
def execFrameCoded (e : Fin 8) (s : State) : Host.Outcome State Fault Refusal := .next (s.codeFrame e)
/-- A decoder takes a job (R367). -/
def execDecodeJob (d : Fin 4) (x : CtxId) (s : State) : Host.Outcome State Fault Refusal := .next (s.startDecode d x)
/-- A decoder ends a job (R367). -/
def execDecodeJobDone (d : Fin 4) (codec : Nat) (stream : List Byte) (bad : Bool) (s : State) :
    Host.Outcome State Fault Refusal := .next (s.endDecode d codec stream bad)

end Sys2Proof.Machine
end

