-- ==== Sys2Proof/Machine/Queue.lean ====
section
/-! DEFINITION. Queues, gang pipes and the Hedgerow (R21, R101, R276, R277, R280 to R285, R357). -/

namespace Sys2Proof.Machine

/-! ### Queues and pipes (R21, R101, R277) -/

/-- Entries of the queue or pipe behind head n; none when no launch has bound it (R101). -/
def State.headCount (s : State) (n : Fin 8) : Option Nat :=
  if 4 ≤ n.val ∧ (s.inPipe s.cur n.val).isNone then none
  else match s.head n with
    | .entry _ c => some c
    | .empty _ => some 0

/-- The pipe bound to port w4 to w7 of a core: its number and itself. -/
def State.outPipeOf (s : State) (c : CoreId) (w : Nat) : Option (Nat × Pipe) :=
  ((s.core c).outPipe[w - 4]?.join).bind fun i => ((s.cluster (clusterOf c)).pipes[i]?.join).map fun p => (i, p)

/-- Space of a pipe its producer sees (R277). -/
def Pipe.room (p : Pipe) (now : Nat) : Nat := 64 - p.entries.length - (p.freed.filter fun t => decide (now < t)).length

/-- The encoder bound to w3 of a core, and its stream (R357). -/
def State.w3Enc (s : State) (c : CoreId) : Option (StrmId × Fin 8) :=
  (s.core c).w3.bind fun n => (s.stream n.toNat).map fun t => (n, t.enc)

/-- Free entries of the queue or pipe bound to port w; none when no launch has bound it (R101). -/
def State.portRoom (s : State) (w : Nat) : Option Nat :=
  if w < 3 then none
  else if w = 3 then (s.w3Enc s.cur).map fun e => 64 - (s.enc e.2).queue.length
  else (s.outPipeOf s.cur w).map fun p => p.2.room s.me.time

def commitPush (w : Fin 8) (v : V512) (s : State) : Commit :=
  if w.val < 3 then .raise .illopd none
  else if w.val = 3 then
    match s.w3Enc s.cur with
    | none => .raise .illopd none
    | some (n, e) =>
      if 64 ≤ (s.enc e).queue.length then .freeze .pipe
      else
        let q := match s.stream n.toNat with | some t => t.w3seq | none => 0
        let s := (s.onStream n.toNat fun t => { t with w3seq := t.w3seq + 1 }).onEnc e fun c =>
          { c with queue := c.queue ++ [(n, ⟨v, q, false⟩, false)] }
        let (d, s) := s.takeDelay Config.guideEncoder
        .ok (s.schedule (s.me.time + d) (.encoderEntryArrive e))
  else
    match s.outPipeOf s.cur w.val with
    | none => .raise .illopd none
    | some (i, p) =>
      if p.consEnded then .ok s
      else if p.room s.me.time = 0 then .freeze .pipe
      else
        let k := clusterOf s.cur
        let s := s.onCluster k fun c => c.setPipe i (some { p with
          entries := p.entries ++ [(⟨v, p.seq, false⟩, false)]
          seq := p.seq + 1
          freed := p.freed.filter fun t => decide (s.me.time < t) })
        .ok (s.schedule (s.me.time + 60) (.pipeEntryArrive k ⟨i % 16, Nat.mod_lt _ (by decide)⟩))

/-- The oldest entry on its way becomes readable (R277). -/
def pipeArrive : List (QEntry × Bool) → List (QEntry × Bool)
  | [] => []
  | (q, true) :: r => (q, true) :: pipeArrive r
  | (q, false) :: r => (q, true) :: r

def headOf (v : V512) : Fin 8 := ⟨sval v % 8, Nat.mod_lt _ (by decide)⟩

def commitQlvl (free keep : Bool) (v : V512) (s : State) : Commit :=
  match (if free then s.portRoom (sval v % 8) else s.headCount (headOf v)) with
  | none => .raise .illopd none
  | some n => deliver s .qx .s keep .qxTo (BitVec.ofNat 512 n) 0 1 none

/-- What a wait on a head waits for. The wait on q0, q1 or q2 counts as one for the engine that feeds it, which so runs on
while the bundle is frozen, as it does for a read or a pop of the head (R101, R184, R217; log 53). -/
def headWait (n : Fin 8) : Wait := if n.val < 2 then .mx else if n.val = 2 then .sg else .reg

def commitQwait (room : Bool) (v : V512) (s : State) : Commit :=
  match (if room then s.portRoom (sval v % 8) else s.headCount (headOf v)) with
  | none => .raise .illopd none
  | some 0 => .freeze (if room then .pipe else headWait (headOf v))
  | some n => deliver s .qx .latch true .qxTo (BitVec.ofNat 512 n) 0 1 none

/-- The sequence number of the entry at a head. R101 says nothing of an empty head: it is taken as a read of one, so it
faults, freezes or reports a recorded failure as that read would (log 53). -/
def commitPseq (keep : Bool) (v : V512) (s : State) : Commit :=
  match s.head (headOf v) with
  | .entry e _ => deliver s .qx .s keep .qxTo (BitVec.ofNat 512 e.seq.toNat) 0 1 none
  | .empty (.fault c (some a)) => .late c a .sedge
  | .empty (.fault c none) => .raise c none
  | .empty (.freeze w) => .freeze w
  | .empty (.val _) => .raise .qempty none

/-! ### The Hedgerow (R280 to R285) -/

/-- Ref time of a link cycle, 3 ref ticks (R281). -/
def linkCycle : Nat := 15

def dirOf (n : Nat) : Dir := match n % 4 with | 0 => .n | 1 => .e | 2 => .s | _ => .w

def dirNum : Dir → Nat | .n => 0 | .e => 1 | .s => 2 | .w => 3

def dirOpp : Dir → Dir | .n => .s | .e => .w | .s => .n | .w => .e

/-- The cluster in a direction; none off the grid (R27, R280). -/
def neighbour (k : ClusterId) (d : Dir) : Option ClusterId :=
  let r := k.toNat / 8
  let c := k.toNat % 8
  match d with
  | .n => if r = 0 then none else some (BitVec.ofNat 6 (8 * (r - 1) + c))
  | .e => if c = 7 then none else some (BitVec.ofNat 6 (8 * r + c + 1))
  | .s => if r = 7 then none else some (BitVec.ofNat 6 (8 * (r + 1) + c))
  | .w => if c = 0 then none else some (BitVec.ofNat 6 (8 * r + c - 1))

/-- Clusters of a mask. -/
def setOf (m : W64) : List ClusterId := ((upto 64).filter fun i => m.getLsbD i).map fun i => BitVec.ofNat 6 i

def State.onHedge (s : State) (k : ClusterId) (f : Hedge → Hedge) : State :=
  s.onCluster k fun c => { c with hedge := f c.hedge }

/-- The neighbour of a phase strand's cluster in its set. -/
def State.phaseNeighbour (s : State) (d : Dir) : Option ClusterId :=
  (neighbour (clusterOf s.cur) d).bind fun n =>
    if (s.cluster (clusterOf s.cur)).hedge.mask.getLsbD n.toNat then some n else none

/-- A strand has committed HBAR with a mask on a cluster, and its phase has not started. -/
def State.barReady (s : State) (m : W64) (k : ClusterId) : Bool :=
  let h := (s.cluster k).hedge
  h.strand.isSome && !h.active && h.mask == m

/-- Adds a wait of the bundle's end. -/
def State.addWait (s : State) (w : EndWait) : State :=
  s.onMe fun k => { k with bs := { k.bs with
    waits := k.bs.waits ++ [w]
    waitFrom := k.bs.waitFrom ++ [(w, k.bs.slot)] } }

/-- A latch result whose value the manual does not state: a free value (log 5). -/
def freeLatch (s : State) (u : FUnit) (dp : Port) : Commit :=
  let (n, s) := s.takeFree
  deliver s u .latch true dp (BitVec.ofNat 512 n) 0 1 none

def commitHbar (v : V512) (s : State) : Commit :=
  let m : W64 := BitVec.ofNat 64 (sval v)
  let k := clusterOf s.cur
  let h := (s.cluster k).hedge
  if !m.getLsbD k.toNat || (match h.strand with | some c => c != s.cur | none => false)
      || s.me.pctx.divCtl != 3 || s.me.ui.active then .raise .illopd none
  else
    let s := (s.onHedge k fun h => { Hedge.reset with strand := some s.cur, mask := m, drops := h.drops }).addWait .hbar
    let s := if (setOf m).all fun c => s.barReady m c then s.schedule (s.me.time + 480) (.phaseStart k) else s
    freeLatch s .qx .qxTo

/-- The phase of a cluster's set starts: links idle, every phase strand leaves at this tick (R280, R281). -/
def State.startPhase (s : State) (k : ClusterId) : State :=
  let m := (s.cluster k).hedge.mask
  if !((setOf m).all fun c => s.barReady m c) || !(s.barReady m k) then s
  else (setOf m).foldl (fun s c =>
    let h := (s.cluster c).hedge
    let s := s.onHedge c fun h => { Hedge.reset with strand := h.strand, mask := m, active := true, drops := h.drops }
    let s := s.onCluster c fun q => { q with press := 0, pressAsked := q.press }
    match h.strand with
    | some p => s.onCore p fun k => { k with time := s.now }
    | none => s) s

def commitXmit (d : Dir) (v : V512) (s : State) : Commit :=
  if !s.inPhase then .raise .illopd none
  else match s.phaseNeighbour d with
    | none => .raise .illopd none
    | some n =>
      let k := clusterOf s.cur
      let t := s.me.time
      if (s.cluster k).hedge.outUsed.contains (t, d) then .raise .qfull none
      else
        let s := s.onHedge k fun h => { h with outUsed := (t, d) :: h.outUsed.filter fun e => decide (t ≤ e.1) }
        let s := s.onHedge n fun h => { h with arriving := h.arriving ++ [(t + 3 * linkCycle, (dirOpp d), v)] }
        freeLatch (s.schedule (t + 3 * linkCycle) (.linkWordArrive n (dirOpp d))) .qx .qxTo

def commitXsel (d : Dir) (v : V512) (s : State) : Commit :=
  let w := sval v
  let fwd := bit w 4
  let out := match s.me.port .qxX with
    | some x => if sval x < 4 ∧ (s.phaseNeighbour (dirOf (sval x))).isSome then some (dirOf (sval x)) else none
    | none => none
  if !s.inPhase || decide (32 ≤ w) || (fwd && out.isNone) then .raise .illopd none
  else
    let sel : Sel := ⟨if fwd then out else none, if bit w 3 then some ⟨w % 8, Nat.mod_lt _ (by decide)⟩ else none⟩
    freeLatch (s.onHedge (clusterOf s.cur) fun h => { h with
      sel := h.sel.set (dirNum d % 4) sel (Nat.mod_lt _ (by decide)) }) .qx .qxTo

/-- A word dropped that its selection did not ask to drop (R284). -/
def Hedge.drop (h : Hedge) : Hedge := { h with drops := h.drops + 1 }

/-- A word delivered to q3 of core j (R284). -/
def State.deliverWord (s : State) (k : ClusterId) (j : Fin 8) (v : V512) : State :=
  let c := coreOf k j.val
  if 64 ≤ (s.core c).q3.length then s.onHedge k Hedge.drop
  else (s.onCore c fun q => { q with q3 := q.q3 ++ [⟨v, q.q3cnt, false⟩], q3cnt := q.q3cnt + 1 }).onHedge k fun h =>
    { h with landed := (s.now, j) :: h.landed.filter fun e => decide (s.now ≤ e.1) }

/-- A word forwarded to an output at time t; an input of lower direction number goes first (R284). -/
def State.forwardWord (s : State) (k : ClusterId) (d o : Dir) (t : Nat) (v : V512) : State :=
  let h := (s.cluster k).hedge
  let beaten := h.arriving.any fun e => decide (e.1 = t) && decide (dirNum e.2.1 < dirNum d)
    && (match h.sel[dirNum e.2.1]? with | some x => x.fwd == some o | none => false)
  if h.outUsed.contains (t, o) || beaten then s.onHedge k Hedge.drop
  else match neighbour k o with
    | none => s.onHedge k Hedge.drop
    | some n =>
      let s := s.onHedge k fun h => { h with outUsed := (t, o) :: h.outUsed.filter fun e => decide (t ≤ e.1) }
      (s.onHedge n fun h => { h with arriving := h.arriving ++ [(t + 3 * linkCycle, (dirOpp o), v)] }).schedule
        (t + 3 * linkCycle) (.linkWordArrive n (dirOpp o))

/-- A word arrives at an input and is handled under the selection in force (R284). -/
def State.wordArrives (s : State) (k : ClusterId) (d : Dir) : State :=
  let h := (s.cluster k).hedge
  match h.arriving.find? fun e => e.2.1 == d && decide (e.1 ≤ s.now) with
  | none => s
  | some (t, _, v) =>
    let s := s.onHedge k fun h => { h with arriving := h.arriving.filter fun e => e.2.1 != d || e.1 != t }
    match h.sel[dirNum d]? with
    | none => s
    | some x =>
      let s := match x.dlv with | some j => s.deliverWord k j v | none => s
      match x.fwd with | some o => s.forwardWord k d o t v | none => s

/-- Every phase strand of a set has committed HEND or ended (R285). -/
def State.phaseOver (s : State) (m : W64) : Bool :=
  (setOf m).all fun c => let h := (s.cluster c).hedge; h.mask != m || !h.active || h.hend

def commitHend (s : State) : Commit :=
  if !s.inPhase then .raise .illopd none
  else
    let k := clusterOf s.cur
    let h := (s.cluster k).hedge
    if h.drops ≠ 0 then .late .qfull (BitVec.ofNat 64 h.drops) .drops
    else
      let s := (s.onHedge k fun h => { h with hend := true }).addWait .hend
      let s := if s.phaseOver h.mask then s.schedule (s.me.time + 480) (.phaseEnd k) else s
      freeLatch s .qx .qxTo

/-- The phase ends on every cluster of its set once no word is in flight: the phase strands leave at this tick,
and a pressure change that waited is applied (R281, R285). -/
def State.endPhase (s : State) (k : ClusterId) : State :=
  let h := (s.cluster k).hedge
  let set := (setOf h.mask).filter fun c => (s.cluster c).hedge.active && (s.cluster c).hedge.mask == h.mask
  if !h.active || !s.phaseOver h.mask then s
  else if set.any fun c => !(s.cluster c).hedge.arriving.isEmpty then s.schedule (s.now + linkCycle) (.phaseEnd k)
  else set.foldl (fun s c =>
    let p := (s.cluster c).hedge.strand
    let s := s.onCluster c fun q => { q with
      press := q.pressAsked
      hedge := { Hedge.reset with drops := q.hedge.drops, landed := q.hedge.landed } }
    match p with
    | some p => s.onCore p fun k => { k with time := Nat.max s.now k.time }
    | none => s) s

/-- A core's strand leaves it, or takes WDFREEZE in HBAR: its cluster leaves the forming phase, or it counts as
having committed HEND (R280, R285). -/
def State.leaveHedge (s : State) (c : CoreId) : State :=
  let k := clusterOf c
  let h := (s.cluster k).hedge
  if h.strand ≠ some c then s
  else if h.active then
    let s := s.onHedge k fun h => { h with hend := true, strand := none }
    if s.phaseOver h.mask then s.schedule (s.now + 480) (.phaseEnd k) else s
  else
    let started (i : Instr) : Bool :=
      match i with
      | .phaseStart n => (s.cluster n).hedge.mask == h.mask && !(s.cluster n).hedge.active
      | _ => false
    { s with events := s.events.filter fun e => !started e.2 }.onHedge k fun h => { h with strand := none, mask := 0 }

/-! ### Steps -/

/-- A push (R21). -/
def execPush (src : Src) (w : Fin 8) (s : State) : Host.Outcome State Fault Refusal :=
  runMove (.push src w) (commitPush w) s
/-- QLVL (R101). -/
def execQlvl (free : Bool) (m : Mv) (s : State) : Host.Outcome State Fault Refusal :=
  runMove (.qlvl free m) (commitQlvl free m.k) s
/-- QWAIT (R101). -/
def execQwait (room : Bool) (m : Mv) (s : State) : Host.Outcome State Fault Refusal :=
  runMove (.qwait room m) (commitQwait room) s
/-- PSEQ (R101). -/
def execPseq (m : Mv) (s : State) : Host.Outcome State Fault Refusal := runMove (.pseq m) (commitPseq m.k) s
/-- A pushed entry becomes readable at its consumer's head (R277). -/
def execPipeEntryArrive (k : ClusterId) (i : Fin 16) (s : State) : Host.Outcome State Fault Refusal :=
  .next (match (s.cluster k).pipes[i] with
    | some p => s.onCluster k fun c => c.setPipe i.val (some { p with entries := pipeArrive p.entries })
    | none => s)
/-- A phase starts (R280). -/
def execPhaseStart (k : ClusterId) (s : State) : Host.Outcome State Fault Refusal := .next (s.startPhase k)
/-- XMIT (R282). -/
def execXmit (d : Dir) (m : Mv) (s : State) : Host.Outcome State Fault Refusal := runMove (.xmit d m) (commitXmit d) s
/-- XSEL (R283). -/
def execXsel (d : Dir) (m : Mv) (s : State) : Host.Outcome State Fault Refusal := runMove (.xsel d m) (commitXsel d) s
/-- A word arrives at a cluster's input (R284). -/
def execLinkWordArrive (k : ClusterId) (d : Dir) (s : State) : Host.Outcome State Fault Refusal :=
  .next (s.wordArrives k d)
/-- A phase ends (R285). -/
def execPhaseEnd (k : ClusterId) (s : State) : Host.Outcome State Fault Refusal := .next (s.endPhase k)

end Sys2Proof.Machine
end

