-- ==== Sys2Proof/Machine/Strand.lean ====
section
/-! DEFINITION. The strand unit: POST, YIELD, WAIT, END, ARGA, JINIT, JDEC, stream reads, its results, and how a
strand leaves its core (R11, R120 to R126, R242, R278, R297 to R299, R311, R355). -/

namespace Sys2Proof.Machine

/-! ### Triggers with a result -/

/-- The record of the strand a core runs; zero words when it runs none. -/
def Core.record (k : Core) : Record := match k.run with | some r => r.rcd | none => Record.ofNat 0

/-- The launch whose frame a posted record joins: that of its poster, for the poster's own context (R300). -/
def State.postLaunch (s : State) (x : CtxId) : Option Nat :=
  if x = s.me.ctx then s.me.run.bind (·.launch) else none

/-- A posted record with what its queue keeps of it (R122, R302). -/
def State.postedRec (s : State) (r : Record) (uid seq : Nat) : QRec :=
  let launch := s.postLaunch r.ctx
  let o := match launch.bind s.launch with | some l => l.origin | none => 0
  ⟨uid, r.setW3 seq 0, launch, none, s.absDeadline o r.dln, neBud (s.nodeEntry r.ctx r.tmpl r.node), 0, 0, [], none⟩

def commitPost (v : V512) (s : State) : Commit :=
  let r := Record.ofNat v.toNat
  let user := !s.me.sup
  reportFirst s true <|
  if r.w1.toNat % 16 ≠ 0 ∨ r.flg ≠ 0 ∨ (r.ctx = 0 ∧ user) then .raise .illopd none
  else if user ∧ r.ctx ≠ s.me.ctx then .raise .priv none
  else needPort s .tkX fun x =>
    let home := sval x
    if 2 ^ 56 ≤ home ∨ s.ncnt r.ctx r.tmpl ≤ r.node then .raise .illopd none
    else match s.translateHere home with
      | none => .raise .lease (some (BitVec.ofNat 64 home))
      | some m =>
        let k := homeCluster (m.phys home)
        let (seq, s) := s.nextSeq r.ctx
        let (uid, s) := s.takeId
        let q := s.postedRec r uid seq
        let s := match q.launch with | some id => s.countRecord id r.tmpl r.node | none => s
        let (n, s) := s.leaseCycles home 6
        let (fid, s) := s.tkFlight .latch none (seq + 2 ^ 16 * k.toNat) (some (s.me.time + n * s.me.cl)) false
        .ok (s.tkRequest (.post q k) fid)

/-- Control cycles ARGA takes: 4 when the strand unit's cache of 16 entries holds the node entry, otherwise the time of a
read more; the entry is the latest used then (R119, R120, log 9). -/
def State.nodeCycles (s : State) (x : CtxId) (tmpl node : Nat) : Nat × State :=
  let key := (x, tmpl, node)
  let (d, s) := if s.me.nodeCache.contains key then (0, s) else s.takeDelay Config.guideSlice
  (4 + ceilDiv d s.me.cl,
    s.onMe fun k => { k with nodeCache := (key :: k.nodeCache.filter fun e => e != key).take 16 })

/-- ARGA: an unset `.to` port is reported before ARGRANGE (R62, R120; DESIGN CHOICE, log 16). -/
def commitArga (keep : Bool) (v : V512) (s : State) : Commit :=
  let r := s.me.record
  withDest s .s keep .tkTo fun _ =>
    match argAddr (s.nodeEntry s.me.ctx r.tmpl r.node) r.inst (sval v) with
    | none => .raise .argrange none
    | some a =>
      let (n, s) := s.nodeCycles s.me.ctx r.tmpl r.node
      tkDeliver s .s keep a n id

def commitJinit (v : V512) (s : State) : Commit :=
  reportFirst s true <|
  needPort s .tkX fun x =>
    let j := sval x
    let n := sval v
    if 16384 ≤ j ∨ 2 ^ 32 ≤ n then .raise .illopd none
    else if s.joinForeign j s.me.ctx then .raise .priv none
    else
      let t := s.join j
      let s := if t.own.isNone then s.setJoin j { t with own := some s.me.ctx } else s
      let (fid, s) := s.tkFlight .latch none 0 none false
      .ok (s.tkRequest (.jinit j n) fid)

def commitJdec (v : V512) (s : State) : Commit :=
  let j := sval v
  reportFirst s true <|
  if 16384 ≤ j then .raise .illopd none
  else if s.joinForeign j s.me.ctx then .raise .priv none
  else
    let (fid, s) := s.tkFlight .latch none 0 none false
    .ok (s.tkRequest (.jdec j) fid)

/-- What STRD reads (R311). -/
def Stream.field (t : Stream) : StField → Nat
  | .rung => t.rung
  | .ontime => t.ontime
  | .period => t.period.toNat
  | .dloff => t.dloff.toNat
  | .fseq => t.fseq.toNat
  | .origin => t.origin.toNat

def commitStrd (f : StField) (keep : Bool) (v : V512) (s : State) : Commit :=
  withDest s .s keep .tkTo fun _ =>
    match (if sval v < 64 then s.stream (sval v) else none) with
    | none => .raise .illopd none
    | some t => if t.ctx ≠ s.me.ctx then .raise .priv none else tkDeliver s .s keep (t.field f) 4 id

/-! ### Triggers that end or suspend the strand (R121 to R126, R278) -/

/-- Results that memory replies still bring to operations of earlier bundles: they may report on a YIELD, WAIT or
END (R166, R327). Those the bundle itself starts are waited for in step 1 of R124. -/
def Core.repliesOut (k : Core) : Bool :=
  k.fl.any fun f => f.due.isNone && (f.unit == .ls || f.unit == .vx) && !k.ofBundle f.id

/-- Checks of YIELD, WAIT and END at commit: YIELD and WAIT not over a live loop; none inside a handler; YIELD and
WAIT not in a gang member (R121, R229, R278). -/
def leaveChecks (s : State) (suspends : Bool) (f : Commit) : Commit :=
  reportFirst s true <|
  if s.me.repliesOut then .freeze (s.waitFor fun f => f.due.isNone && (f.unit == .ls || f.unit == .vx))
  else if suspends && !s.me.loops.isEmpty then .raise .loopstk none
  else if s.me.ui.active || (suspends && (s.me.run.bind (·.gang)).isSome) then .raise .illopd none
  else f

/-- The strand leaves its core at the end of the bundle. -/
def State.setLeave (s : State) (l : Leave) : State :=
  s.onMe fun k => { k with bs := { k.bs with leave := some l, leaveSlot := k.bs.slot } }

def commitYield (_v : V512) (s : State) : Commit := leaveChecks s true (.ok (s.setLeave .yield))

/-- The strand as a waiter whose record is still to be written. -/
def State.waiterHere (s : State) : QRec :=
  match s.me.run with
  | some r => ⟨r.uid, r.rcd, r.launch, none, none, 0, 0, 0, r.vc, none⟩
  | none => ⟨0, Record.ofNat 0, none, none, none, 0, 0, 0, [], none⟩

/-- Table operations of the strand before this one are still to be performed (R296). -/
def State.tablePending (s : State) : Bool :=
  (s.reqsOf s.cur).any fun r => match r.kind with | .tk _ => true | _ => false

def commitWait (v : V512) (s : State) : Commit :=
  let j := sval v
  leaveChecks s true <|
  if 16384 ≤ j then .raise .illopd none
  else if s.joinForeign j s.me.ctx then .raise .priv none
  else if s.tablePending then .freeze (s.waitOn fun r => match r.kind with | .tk _ => true | _ => false)
  else
    let t := s.join j
    if t.value = 0 then .ok ((s.selfInvalidate s.cur).acquireVc s.cur t.vc)
    else .ok ((s.setJoin j { t with waiters := t.waiters ++ [(s.waiterHere, clusterOf s.cur)] }).setLeave (.wait j))

def commitEnd (_v : V512) (s : State) : Commit := leaveChecks s false (.ok (s.setLeave .endStrand))

/-! ### Results of the strand unit (R23, R299, R321) -/

/-- The value and delivery time of a result that awaited its table. -/
def State.tkAnswer (s : State) (c : CoreId) (fid v guide : Nat) : State :=
  let (d, s) := s.takeDelay guide
  let s := s.onCore c fun k => { k with fl := k.fl.map fun f =>
    if f.id = fid then { f with value := BitVec.ofNat 512 v, due := some (s.now + d) } else f }
  s.schedule (s.now + d) (.tkResultDelivery c)

/-- A release at a table or unit is performed: the core's dirty lines first (R321). -/
def State.performTk (s : State) (c : CoreId) (r : Req) (op : TkOp) : State :=
  let (s, g) := s.writeBackAll c false
  let s := (s.addLate c g).dropReq r.id
  let v := (s.whoNow r).passes
  match op with
  | .post q k => s.enqueue k { q with vc := v }
  | .jinit j n =>
    let (s, n) := s.joinInit j n v
    s.tkAnswer c r.fid n Config.guideTable
  | .jdec j =>
    let (s, v) := s.joinDec j v
    let s := match (if v = 2 ^ 32 then (s.core c).run.bind (·.launch) else none) with
      | some id => s.onLaunch id fun l => { l with junder := true }
      | none => s
    s.tkAnswer c r.fid v Config.guideTable

/-- Releases of a core that may take place now do, in order, at most n of them. -/
def State.performReady (s : State) (c : CoreId) : Nat → State
  | 0 => s
  | n + 1 =>
    match (s.reqsOf c).find? fun r => match r.kind with | .tk _ => r.held && s.mayLeave r | _ => false with
    | none => s
    | some r =>
      match r.kind with
      | .tk op => ((s.performTk c r op).lsAdvance c).performReady c n
      | _ => s

/-- Results of tk that are due land in trigger order; an acquire's empties the L1 of clean lines (R23, R323). -/
def State.landTk (s : State) (c : CoreId) : Nat → State
  | 0 => s
  | n + 1 =>
    match (s.core c).fl.find? fun f => f.unit == .tk with
    | none => s
    | some f =>
      match f.due with
      | none => s
      | some d =>
        if s.now < d then s
        else
          let s := s.onCore c fun k => k.landOne f
          (if f.acq then s.selfInvalidate c else s).landTk c n

/-- Ready table operations take place and due results land (R23, R299). -/
def execTkResultDelivery (c : CoreId) (s : State) : Host.Outcome State Fault Refusal :=
  let s := { s with cur := c }
  let s := s.performReady c ((s.reqsOf c).length)
  .next (s.landTk c ((s.core c).fl.length))

/-! ### Step 1 of R124 -/

/-- Everything the strand of a core started has completed or retired (R124 step 1). -/
def State.strandQuiet (s : State) (c : CoreId) : Bool :=
  let k := s.core c
  k.fl.isEmpty && (s.reqsOf c).isEmpty && k.enginesQuiet && k.mx.arr.isEmpty && k.mx.drn.isEmpty
    && k.mx.mldc.isEmpty && k.sg.pass.isNone

/-- A control cycle of waiting for step 1, measured as a freeze of the trigger's slot: the engines run (R124, R167,
R168), and rows that a pass pushes are discarded (R219). -/
def State.waitCycle (s : State) (c : CoreId) : State :=
  let va := State.waitVa { s with cur := c } [.order ((s.reqsOf c).map (·.id)) false]
  (s.onCore c fun k =>
    let k := k.frozenCycle [.reg] k.bs.leaveSlot va
    { k with bs := { k.bs with dropping := true } }).runEngines c true true

/-! ### Leaving the core -/

/-- The gang's bindings on a core undone. -/
def Core.unbind (k : Core) : Core :=
  { k with gangHold := none, outPipe := Vector.replicate 4 none, inPipe := Vector.replicate 4 none }

/-- A gang member has ended: its pipes know, and with the last member the gang ends (R277, R278). -/
def State.memberEnds (s : State) (c : CoreId) (gid : Nat) : State :=
  let k := clusterOf c
  let mark (p : Option Pipe) : Option Pipe := p.map fun p =>
    if p.gang = gid then { p with
      prodEnded := p.prodEnded || p.prod == c
      consEnded := p.consEnded || p.cons == c } else p
  let s := s.onCluster k fun q => { q with pipes := q.pipes.map mark }
  if (clusterCores k).any fun d => ((s.core d).run.bind (·.gang)) == some gid then s
  else
    let s := s.onCluster k fun q => { q with pipes := q.pipes.map fun p => match p with
      | some p => if p.gang = gid then none else some p
      | none => none }
    ((clusterCores k).foldl (fun s d =>
      if (s.core d).gangHold = some gid then s.onCore d Core.unbind else s) s).poke k

/-- The core is free: the strand's state is gone, debt is noted, and the Lark is asked (R124 step 5, R248). -/
def State.coreFree (s : State) (c : CoreId) : State :=
  let k := s.core c
  let gang := k.run.bind (·.gang)
  let s := s.leaveHedge c
  let s := s.onCore c fun k =>
    let b := (k.outPipe, k.inPipe)
    let k := k.groupSwitch
    if k.gangHold.isSome then { k with outPipe := b.1, inPipe := b.2 } else k
  let s := match gang with | some g => s.memberEnds c g | none => s
  s.schedule (Nat.max s.now (s.core c).time) (.pickup c)

/-- The running record with its resume point, RFLG, WOBJ and carried values (R124 step 3). -/
def Core.writtenRecord (k : Core) (t : Target) (flg wobj : Nat) : Record :=
  let r := k.record
  let g (i : Nat) : W64 := BitVec.ofNat 64 (k.rf.read i)
  { (r.setPlace t flg).setW3 r.seq wobj with cv0 := g 60, cv1 := g 61, cv2 := g 62, cv3 := g 63 }

/-- A written record with what its queue keeps of it. -/
def State.writtenRec (s : State) (c : CoreId) (rcd : Record) (vc : Vc) : QRec :=
  match (s.core c).run with
  | none => ⟨0, rcd, none, some s.gt, none, 0, 0, 0, vc, none⟩
  | some r =>
    let o := match r.launch.bind s.launch with | some l => l.origin | none => 0
    ⟨r.uid, rcd, r.launch, some s.gt, s.absDeadline o rcd.dln, neBud (s.nodeEntry rcd.ctx rcd.tmpl rcd.node),
      r.frozen, r.split, vc, none⟩

/-- END's decrement of its node's join counter (R126, R297, R298). -/
def State.endJoin (s : State) (x : CtxId) (r : Record) (launch : Option Nat) (vc : Vc) : State :=
  let e := s.nodeEntry x r.tmpl r.node
  let note (s : State) (f : Launch → Launch) : State := match launch with | some id => s.onLaunch id f | none => s
  if !neJen e then s
  else if s.joinForeign (neJctr e) x then note s fun l => { l with cause := some (l.cause.getD .priv) }
  else
    let (s, v) := s.joinDec (neJctr e) vc
    if v = 2 ^ 32 then note s fun l => { l with junder := true } else s

/-- The launch of an ended strand sees its release, and its record ends (R302, R330). -/
def State.strandEnds (s : State) (r : Running) (vc : Vc) : State :=
  match r.launch with
  | none => s
  | some id =>
    (s.onLaunch id fun l => { l with vc := vcJoin l.vc vc }).recordEnds id r.rcd.tmpl r.rcd.node r.frozen r.split

/-- Steps 3 to 5 of R124, or END's of R126, once the checks have passed. RFLG 0x03 of R12, a strand waiting on a queue, is
never written: no chapter names a trigger that suspends a strand so, and a full or empty queue freezes (log 53). -/
def State.leaveNow (s : State) (c : CoreId) (l : Leave) (t : Target) : State :=
  let k := s.core c
  match k.run with
  | none => s.coreFree c
  | some r =>
    let (vc, s) := State.eagerRelease { s with cur := c }
    let cl := clusterOf c
    match l with
    | .yield =>
      let q := s.writtenRec c (k.writtenRecord t 1 (k.record.w3.toNat % 2 ^ 48)) vc
      (s.coreFree c).requeue cl q []
    | .wait j =>
      let q := s.writtenRec c (k.writtenRecord t 2 j) vc
      let w := s.join j
      if w.waiters.any fun e => e.1.uid == r.uid then
        (s.setJoin j { w with waiters := w.waiters.map fun e => if e.1.uid = r.uid then (q, e.2) else e }).coreFree c
      else (s.coreFree c).requeue cl q w.vc
    | .ring n i =>
      let q := s.writtenRec c (k.writtenRecord t 4 (n.toNat + 2 ^ 8 * i)) vc
      match s.stream n.toNat with
      | none => (s.coreFree c).requeue cl q []
      | some w =>
        if w.waiters.any fun e => e.1.uid == r.uid then
          (s.onStream n.toNat fun w => { w with waiters := w.waiters.map fun e =>
            if e.1.uid = r.uid then (q, e.2) else e }).coreFree c
        else (s.coreFree c).requeue cl q (w.slotVc i)
    | .dropped => (s.coreFree c).strandEnds r vc
    | .endStrand =>
      let s := s.endJoin k.ctx r.rcd r.launch vc
      (s.coreFree c).strandEnds r vc

/-- A strand that does not leave after all is no waiter (R327). -/
def State.unwait (s : State) (c : CoreId) : State :=
  let k := s.core c
  let uid := match k.run with | some r => r.uid | none => 0
  match k.bs.leave with
  | some (.wait j) => s.setJoin j { s.join j with waiters := (s.join j).waiters.filter fun e => e.1.uid != uid }
  | some (.ring n _) => s.onStream n.toNat fun t => { t with waiters := t.waiters.filter fun e => e.1.uid != uid }
  | _ => s

/-- Nor has its switch started (R248). -/
def State.withdraw (s : State) (c : CoreId) : State :=
  (s.onCore c fun k => k.onPctx fun p => { p with odebt := 0 }).unwait c

/-- Every dirty line of a core whose strand is discarded is written back; what races is withheld and goes, since no strand
is left to report it (R327, log 17). -/
def State.leaveLines (s : State) (c : CoreId) : State :=
  (s.writeBackAll c true).1.onCore c fun k => { k with l1 := k.l1.filter fun e => e.dirty == 0 }

/-- A strand is discarded: no record, no decrement (R242, R243). Its dirty lines are written back before it leaves its
core (R327), and a pending switch starts here (R248). -/
def State.discardStrand (s : State) (c : CoreId) (cause : Option Cause) : State :=
  match (s.core c).run with
  | none => s.coreFree c
  | some r =>
    let s := (s.withdraw c).leaveLines c
    let s := s.noteDebt c (Nat.max s.now (s.core c).time)
    let s := match r.launch, cause with
      | some id, some e => s.onLaunch id fun l => { l with cause := some (l.cause.getD e) }
      | _, _ => s
    (s.coreFree c).strandEnds r []

/-! ### Steps -/

/-- POST (R122). -/
def execPost (m : Mv) (s : State) : Host.Outcome State Fault Refusal := runMove (.post m) commitPost s
/-- ARGA (R120). -/
def execArga (m : Mv) (s : State) : Host.Outcome State Fault Refusal := runMove (.arga m) (commitArga m.k) s
/-- JINIT (R299). -/
def execJinit (m : Mv) (s : State) : Host.Outcome State Fault Refusal := runMove (.jinit m) commitJinit s
/-- JDEC (R299). -/
def execJdec (m : Mv) (s : State) : Host.Outcome State Fault Refusal := runMove (.jdec m) commitJdec s
/-- STRD (R311). -/
def execStrd (f : StField) (m : Mv) (s : State) : Host.Outcome State Fault Refusal :=
  runMove (.strd f m) (commitStrd f m.k) s

end Sys2Proof.Machine
end

