-- ==== Sys2Proof/Machine/System.lean ====
section
/-! DEFINITION. The system unit: capsule images, traps, faults that end a strand or a context, system
registers, NCS and the energy counter (R226 to R246, R253 to R259, R168, R248). -/

namespace Sys2Proof.Machine

/-! ### The capsule image (R234, R235) -/

/-- Bytes of a port in the image (R234). -/
def portWidth (p : Port) : Nat :=
  match p with
  | .lsH | .vxH | .mxH | .sgH | .cpH | .gaH | .syH => 16
  | .vxX | .vxY | .mxCa | .mxCb => 64
  | _ => 8

/-- Fields of given widths in bytes, the first lowest. -/
def packFields : List (Nat × Nat) → Nat
  | [] => 0
  | (w, v) :: r => v % 2 ^ (8 * w) + 2 ^ (8 * w) * packFields r

/-- The values of fields of given widths in bytes. -/
def splitFields : List Nat → Nat → List Nat
  | [], _ => []
  | w :: r, v => v % 2 ^ (8 * w) :: splitFields r (v / 2 ^ (8 * w))

def optNat (v : Option V512) : Nat := match v with | some v => v.toNat | none => 0

/-- Bit i set for each element i that is present. -/
def presentMask (l : List (Option V512)) : Nat :=
  (upto l.length).foldl (fun m i => if (l[i]?.join).isSome then m + 2 ^ i else m) 0

/-- The word of a capsule's header at byte 16 (R235). -/
def Capsule.word2 (c : Capsule) : Nat :=
  c.cause.code + 2 ^ 8 * c.resume + 2 ^ 12 * boolCode c.begun + 2 ^ 13 * boolCode c.sup + 2 ^ 14 * boolCode c.inui
    + 2 ^ 16 * c.popd.toNat + 2 ^ 24 * c.kind.toNat + 2 ^ 28 * c.ctx.toNat

/-- The 1,536-byte image of a capsule (R234). -/
def Capsule.image (c : Capsule) : Nat :=
  packFields ([(8, c.baddr.abs.toNat), (8, c.faddr.toNat), (8, c.word2),
      (8, c.vrb + 2 ^ 8 * c.prb + 2 ^ 16 * presentMask c.lat.toList), (8, presentMask c.ports.toList), (24, 0)]
    ++ c.ops.toList.map (fun v => (64, optNat v))
    ++ (upto 12).map (fun i => (8, if i = 4 then 0 else optNat c.lat[i]?.join))
    ++ [(64, optNat c.lat[4]), (64, loopsWord c.loops)]
    ++ allPorts.map (fun p => (portWidth p, optNat c.ports[p.index]?.join))
    ++ [(112, 0)])

/-- What TRET takes from an image (R238). -/
structure CapImage where
  baddr : W64
  faddr : W64
  w2 : W64
  w3 : W64
  pset : W64
  rest : Nat               -- bytes 40 to 63 and 1424 to 1535, which must be zero
  ops : List Nat
  lat : List Nat
  b4 : Nat
  loops : Nat
  ports : List Nat
deriving DecidableEq, Repr

def capImage (v : Nat) : CapImage :=
  let w (i : Nat) : W64 := BitVec.ofNat 64 (getBytes v (8 * i) 8)
  { baddr := w 0, faddr := w 1, w2 := w 2, w3 := w 3, pset := w 4,
    rest := getBytes v 40 24 + getBytes v 1424 112 + getBytes v 608 8,
    ops := (upto 8).map fun i => getBytes v (64 + 64 * i) 64,
    lat := (upto 12).map fun i => getBytes v (576 + 8 * i) 8,
    b4 := getBytes v 672 64, loops := getBytes v 736 64,
    ports := splitFields (allPorts.map portWidth) (getBytes v 800 624) }

def CapImage.resume (i : CapImage) : Nat := bits i.w2.toNat 11 8
def CapImage.begun (i : CapImage) : Bool := bit i.w2.toNat 12
def CapImage.sup (i : CapImage) : Bool := bit i.w2.toNat 13
def CapImage.inui (i : CapImage) : Bool := bit i.w2.toNat 14
def CapImage.popd (i : CapImage) : BitVec 8 := BitVec.ofNat 8 (bits i.w2.toNat 23 16)
def CapImage.kind (i : CapImage) : BitVec 4 := BitVec.ofNat 4 (bits i.w2.toNat 27 24)
def CapImage.ctx (i : CapImage) : Nat := bits i.w2.toNat 31 28

/-- A reserved field of a loop-stack entry of an image is not zero (R113). -/
def loopReserved (v : Nat) : Bool :=
  (upto 4).any fun i =>
    let w := v / 2 ^ (128 * i) % 2 ^ 128
    bits w 31 15 != 0 || bit w 7 || bits w 126 120 != 0

/-- A reserved field of the image is not zero (R235, R238). -/
def CapImage.reserved (i : CapImage) : Bool :=
  bits i.w2.toNat 63 32 != 0 || bit i.w2.toNat 15 || bits i.w3.toNat 63 28 != 0 || bits i.w3.toNat 15 11 != 0
    || bits i.w3.toNat 7 5 != 0 || bits i.pset.toNat 63 43 != 0 || i.rest != 0 || loopReserved i.loops

/-- The faults TRET raises at its bundle's end, in order (R238). -/
def CapImage.refused (i : CapImage) (k : Core) : Option Cause :=
  if i.reserved || i.ctx != k.ctx.toNat then some .illopd
  else if i.sup && !k.sup then some .priv
  else if badAbs i.baddr.toNat || decide (8 < i.resume) then some .illopd
  else none

/-- A handle of an image as it is restored (R239). -/
def State.revalidate (s : State) (h : Handle) : Handle :=
  if h = spadHandle s.me.ctx then h
  else if h.v && h.ctx == s.me.ctx.toNat && !h.isSpad then
    match s.translateHere h.vbase with
    | some m => if m.handle s.me.ctx = h then h else h.invalid
    | none => h.invalid
  else h.invalid

/-- The latches an image gives. -/
def CapImage.latches (i : CapImage) : Latches :=
  Vector.ofFn fun n =>
    if bit i.w3.toNat (16 + n.val) then
      some (BitVec.ofNat 512 (if n.val = 4 then i.b4 else i.lat[n.val]?.getD 0))
    else none

/-- The ports an image gives, their handles checked. -/
def State.imagePorts (s : State) (i : CapImage) : Ports :=
  Vector.ofFn fun n =>
    if bit i.pset.toNat n.val then
      let v := i.ports[n.val]?.getD 0
      let isH := match allPorts[n.val]? with | some p => handlePorts.contains p | none => false
      some (BitVec.ofNat 512 (if isH then (s.revalidate (BitVec.ofNat 128 v)).toNat else v))
    else none

/-- Number of handles an image's ports hold, each the time of a TRN (R239). -/
def CapImage.handles (i : CapImage) : Nat := (handlePorts.filter fun p => bit i.pset.toNat p.index).length

/-- TRET's effect: the core holds what the image holds and re-enters its bundle (R68, R238). -/
def State.reenterImage (s : State) (i : CapImage) : State :=
  let ports := s.imagePorts i
  let cost := 12 * i.handles
  s.onMe fun k =>
    let known := k.readTimes.find? fun e => e.baddr == i.baddr && e.resume == i.resume
    let k : Core := { k with
      readTimes := k.readTimes.filter fun e => !(e.baddr == i.baddr && e.resume == i.resume)
      lat := i.latches
      ports := ports
      loops := loopsOf i.loops
      vrb := bits i.w3.toNat 4 0
      prb := bits i.w3.toNat 10 8
      masked := false
      capsule := none
      capst := false
      ui := { k.ui with active := i.inui }
      time := k.time + cost * k.cl
      ccyc := k.ccyc + BitVec.ofNat 64 cost
      frz := k.frz + BitVec.ofNat 64 cost
      run := k.run.map (fun (r : Running) => { r with frozen := r.frozen + cost * k.pctx.divCtl }) }
    let k : Core := k.goTo (Target.ofAbs i.baddr.toNat)
    if i.begun then
      { k with bs := { k.bs with
          quiet := true
          resume := i.resume
          kept := known.map fun e => (e.ncs, e.ec, e.f)
          branch := known.bind (·.branch)
          ops := Vector.ofFn fun n => if i.resume ≤ n.val then some (BitVec.ofNat 512 (i.ops[n.val]?.getD 0)) else none
          reenter := some (i.popd, i.kind) } }
    else { k with bs := { k.bs with quiet := true } }

/-! ### CAPST, TRET, UIRET, TRAP, BRK, CAPR (R236 to R241, R182) -/

/-- The checks CAPST and TRET share: HSTALE, ALIGN, HBOUND, PRIV (R236, R238). -/
def withCapsuleArea (s : State) (off : Nat) (perm : Handle → Bool) (f : Handle → Commit) : Commit :=
  needPort s .syH fun v =>
    let h : Handle := BitVec.ofNat 128 v.toNat
    if !h.v || h.ctx != s.me.ctx.toNat then .raise .hstale none
    else if off % 64 ≠ 0 then .raise .align none
    else if h.size < off + 1536 then .raise .hbound none
    else if !perm h then .raise .priv none
    else f h

/-- The stores of a capsule image, in program order through the L1 or to the scratchpad (R236). -/
def State.storeImage (s : State) (h : Handle) (off v : Nat) : State :=
  if h.isSpad then s.onMe fun k => k.spadWrite off 1536 v
  else (upto 24).foldl (fun s i =>
    s.makeReq .store (h.pbase + off + 64 * i) 64 (getBytes v (64 * i) 64) 0 (h.va (off + 64 * i)) h.psz) s

def commitCapst (v : V512) (s : State) : Commit :=
  match s.me.capsule with
  | none => .raise .illopd none
  | some c =>
    withCapsuleArea s (sval v) Handle.pw fun h =>
      if !h.isSpad && slotsFull s 24 then .freeze (s.waitOn fun r => r.kind.takesSlot)
      else deliver ((s.storeImage h (sval v) c.image).onMe fun k => { k with capst := true })
        .sy .latch true .syTo 0 0 1 none

def commitTret (v : V512) (s : State) : Commit :=
  withCapsuleArea s (sval v) Handle.pr fun h =>
    .ok ((s.addWait .stores).onMe fun k => { k with bs := { k.bs with
      tret := some (if h.isSpad then 2 ^ 64 + sval v else h.pbase + sval v)
      imageVa := if h.isSpad then 0 else h.va (sval v) } })

def commitTrap (v : V512) (s : State) : Commit := .after s .trapins (BitVec.ofNat 64 (sval v % 256))

def commitBrk (_v : V512) (s : State) : Commit := .after s .brk 0

/-- What CAPR reads (R240). -/
def Capsule.field (c : Capsule) : CapField → Nat
  | .cause => c.cause.code
  | .faddr => c.faddr.toNat
  | .resume => c.resume + 16 * boolCode c.begun
  | .bundle => c.baddr.abs.toNat

def commitCapr (f : CapField) (keep : Bool) (_v : V512) (s : State) : Commit :=
  match s.me.capsule with
  | none => .raise .illopd none
  | some c => deliver s .sy .s keep .syTo (BitVec.ofNat 512 (c.field f)) 0 1 none

/-! ### Clocks, NCS and the energy counter (R253, R255, R257, R258) -/

/-- DIVFL of a core's cluster (R376). -/
def State.floorOf (s : State) (c : CoreId) : Nat := Nat.max 3 (s.cluster (clusterOf c)).divfl

def commitClkdiv (d : Dom) (v : V512) (s : State) : Commit :=
  let n := sval v
  if n < s.floorOf s.cur ∨ 15 < n then .raise .clkdiv none
  else .ok (s.addWait (.clkdiv d n true))

/-- The counter in the form of ECNT (R257). -/
def ecntForm (v : Nat) (sat : Bool) : Nat := v / 256 % 2 ^ 48 + 2 ^ 63 * boolCode sat

/-- ECNT's value: that of the bundle's read time (R257). -/
def Core.ecRead (k : Core) : Nat :=
  if k.bs.committed then k.bs.ec0 else ecntForm k.pctx.ec.toNat k.pctx.satf

def commitEcnt (keep : Bool) (_v : V512) (s : State) : Commit :=
  deliver s .sy .s keep .syTo (BitVec.ofNat 512 s.me.ecRead) 0 1 none

def commitNcsr (keep : Bool) (_v : V512) (s : State) : Commit :=
  deliver s .sy .s keep .syTo (BitVec.ofNat 512 s.me.ncsRead.toNat) 0 1 none

def commitNcsw (clr : Bool) (v : V512) (s : State) : Commit :=
  let n := sval v
  if (if clr then decide (2 ^ 8 ≤ n) else decide (2 ^ 10 ≤ n)) then .raise .illopd none
  else
    let s := s.onMe fun k => k.onPctx fun p => { p with
      ncs := if clr then ncsClear p.ncs (BitVec.ofNat 8 n) else BitVec.ofNat 10 n }
    deliver s .sy .latch true .syTo 0 0 1 none

/-- A preset of a context's counter on a core: its value joins the carry, then the counter is preset (R258,
R378). -/
def State.presetCounter (s : State) (c : CoreId) (x : CtxId) (v : W64) : State :=
  let (old, sat) := s.meterValue x c
  let units := v.toNat % 2 ^ 48 * 256
  let s := if ((s.core c).pctxOf x).inArea then s.writeDie (s.saveArea x c + 5728) 7 units else s
  s.onCore c fun k => k.onPctxOf x fun p => { p with
    ec := BitVec.ofNat 56 units
    satf := false
    carry := p.carry + (if sat then (2 ^ 48 - 1) * 256 else old)
    carrySat := p.carrySat || sat }

/-! ### System registers (R245, R246) -/

/-- A register's value; none when REG is not listed or CSEL is not zero for one of no context. -/
def State.sysRead (s : State) (reg : Nat) (x : CtxId) : Option Nat :=
  let c := s.ctx x
  let die (v : Nat) : Option Nat := if x = 0 then some v else none
  match reg with
  | 0x000 => some c.tvec.toNat
  | 0x001 => some c.capb.toNat
  | 0x002 => some c.saveb.toNat
  | 0x003 => some c.tdir.toNat
  | 0x004 => some c.slice.toNat
  | 0x005 => some c.ovrl.toNat
  | 0x006 => some c.lockq.toNat
  | 0x007 => let (v, b) := s.meterValue x s.cur; some (ecntForm v b)
  | 0x008 => some (s.residentTicks x s.cur)
  | 0x009 => some (s.me.pctxOf x).odebt
  | 0x00A => some c.mapb.toNat
  | 0x00B => some c.mapn.toNat
  | 0x010 => die s.die.fwdl
  | 0x011 => die s.die.pwdl
  | 0x012 => die s.die.revCount.toNat
  | 0x013 => die (s.cluster (clusterOf s.cur)).divfl
  | 0x014 => die (s.cluster (clusterOf s.cur)).press
  | 0x015 => die (s.idleTicks s.cur)
  | n => if 0x100 ≤ n ∧ n < 0x110 then die (s.weight ⟨(n - 0x100) % 16, Nat.mod_lt _ (by decide)⟩) else none

/-- Registers that only firmware writes (R246). -/
def firmwareReg (reg : Nat) : Bool := reg == 0x013 || (decide (0x100 ≤ reg) && decide (reg < 0x110))

/-- Registers no strand writes. -/
def readOnlyReg (reg : Nat) : Bool := reg == 0x008 || reg == 0x009 || reg == 0x014 || reg == 0x015

/-- A value the register refuses (R245, R246). -/
def sysRefuses (c : Ctx) (reg v : Nat) : Bool :=
  match reg with
  | 0x000 => v != 0 && badAbs v
  | 0x001 => v % 2 ^ 25 != 0 || decide (2 ^ 56 ≤ v)
  | 0x002 => v % 2 ^ 22 != 0 || decide (2 ^ 52 ≤ v) || (v == 0 && c.slice != 0)
  | 0x003 => v % 2 ^ 16 != 0 || decide (2 ^ 52 ≤ v)
  | 0x004 => decide (2 ^ 32 ≤ v) || (v != 0 && (c.saveb == 0 || decide (v ≤ c.ovrl.toNat)))
  | 0x005 => c.slice != 0 && decide (c.slice.toNat ≤ v)
  | 0x007 => decide (2 ^ 48 ≤ v)
  | 0x00A => v % 2 ^ 12 != 0 || decide (2 ^ 52 ≤ v)
  | 0x00B => decide (2 ^ 20 < v)
  | 0x012 => decide (2 ^ 56 ≤ v)
  | _ => false

/-- Every cluster with records, or with a saved strand on a free core, is looked at (R247). -/
def State.pokeAll (s : State) : State :=
  (upto 64).foldl (fun s k =>
    let k := BitVec.ofNat 6 k
    if !(s.cluster k).queue.isEmpty || ((clusterCores k).any fun c =>
        (s.core c).isFree && (s.core c).pc'.toList.any fun p => p.saved.isSome)
    then s.poke k else s) s

/-- A register written (R246). -/
def State.sysWrite (s : State) (reg : Nat) (x : CtxId) (v : W64) : State :=
  match reg with
  | 0x000 => s.onCtx x fun c => { c with tvec := v }
  | 0x001 => s.onCtx x fun c => { c with capb := v }
  | 0x002 => s.onCtx x fun c => { c with saveb := v }
  | 0x003 => s.onCtx x fun c => { c with tdir := v }
  | 0x004 => (s.onCtx x fun c => { c with slice := v }).pokeAll
  | 0x005 => s.onCtx x fun c => { c with ovrl := v }
  | 0x006 => s.onCtx x fun c => { c with lockq := v }
  | 0x007 => s.presetCounter s.cur x v
  | 0x00A => s.onCtx x fun c => { c with mapb := v }
  | 0x00B => s.onCtx x fun c => { c with mapn := v }
  | 0x010 => { s with die := { s.die with fwdl := v.toNat } }
  | 0x011 => { s with die := { s.die with pwdl := v.toNat } }
  | 0x012 => s.addWait (.revoke x v s.nextId)
  | _ => s

def commitSysr (keep : Bool) (v : V512) (s : State) : Commit :=
  let sel := sval v
  if !s.me.sup then .raise .priv none
  else match (if bits sel 15 12 = 0 ∧ sel < 2 ^ 20 then s.sysRead (sel % 2 ^ 12) (BitVec.ofNat 4 (bits sel 19 16)) else none) with
    | none => .raise .illopd none
    | some n => deliver s .sy .s keep .syTo (BitVec.ofNat 512 (n % 2 ^ 64)) 0 1 none

def commitSysw (v : V512) (s : State) : Commit :=
  let sel := sval v
  let reg := sel % 2 ^ 12
  let x : CtxId := BitVec.ofNat 4 (bits sel 19 16)
  if !s.me.sup || firmwareReg reg then .raise .priv none
  else if bits sel 15 12 ≠ 0 ∨ 2 ^ 20 ≤ sel ∨ (s.sysRead reg (if reg = 0x012 then 0 else x)).isNone ∨ readOnlyReg reg then .raise .illopd none
  else needPort s .syX fun a =>
    if sysRefuses (s.ctx x) reg (sval a) then .raise .illopd none
    else deliver (s.sysWrite reg x (BitVec.ofNat 64 (sval a))) .sy .latch true .syTo 0 0 1 none

/-- The revocations a bundle's end waits for that may complete do so (R159). -/
def State.revokeReady (s : State) (c : CoreId) : State :=
  let ready (w : EndWait) : Option (CtxId × Nat) :=
    match w with
    | .revoke x va n => if s.pageBusy x va.toNat n then none else some (x, va.toNat)
    | _ => none
  let done := (s.core c).bs.waits.filterMap ready
  let s := s.onCore c fun k => { k with bs := { k.bs with waits := k.bs.waits.filter fun w => (ready w).isNone } }
  done.foldl (fun s e => s.revokePage e.1 e.2) s

/-! ### Results due at a core (R23, R167) -/

/-- Results of the units that have no step of their own land. -/
def State.landCore (s : State) (c : CoreId) : State :=
  s.onCore c fun k => k.landDue s.now fun u => u == .br || u == .sy || u == .qx || u == .ls

/-! ### Faults that end a strand or a context (R242, R243) -/

/-- The report of a fault to the supervisor (R242, R243). -/
def State.reportFault (s : State) (c : CoreId) (r : Raised) : State :=
  let k := s.core c
  let q := k.record
  { s with die := { s.die with
    reports := s.die.reports ++ [⟨c, k.ctx, r.cause, r.faddr, r.baddr.abs, q.w0, q.w1, q.w2, q.w3⟩] } }

/-- A record of a context that is dropped: its launch sees one record less. -/
def State.dropRecord (s : State) (launch : Option Nat) (r : Record) (frozen split : Nat) : State :=
  match launch with
  | some id => s.recordEnds id r.tmpl r.node frozen split
  | none => s

/-- A queued record dropped; a gang entry with all its members (R276, R302). -/
def State.dropQRec (s : State) (q : QRec) : State :=
  match q.gang with
  | some (g, _) => g.nodes.foldl (fun s n => s.dropRecord q.launch (q.rcd.setNode n) 0 0) s
  | none => s.dropRecord q.launch q.rcd q.frozen q.split

/-- Queued records of a context dropped on a cluster. -/
def State.dropQueued (s : State) (x : CtxId) (k : ClusterId) : State :=
  let mine := (s.cluster k).queue.filter fun q => q.rcd.ctx == x
  let s := s.onCluster k fun c => { c with
    queue := c.queue.filter fun q => q.rcd.ctx != x
    resv := match c.resv with
      | some u => if mine.any fun q => q.uid == u then none else some u
      | none => none }
  mine.foldl State.dropQRec s

/-- A waiter of another context on a counter that is freed is discarded: on its core when it has not left that (R297). -/
def State.dropWaiter (s : State) (j : Nat) (q : QRec) : State :=
  if q.released.isSome then s.dropQRec q
  else { s with cores := s.cores.map fun k =>
    if k.run.any (fun r => r.uid == q.uid) && k.bs.leave == some (.wait j) then
      { k with
        phase := (match k.phase with | .leaving _ => .leaving .dropped | p => p)
        bs := { k.bs with leave := some .dropped } }
    else k }

/-- Waiters of a context on join counters dropped, and counters it owns freed; strands of the context still on their
cores are discarded there. -/
def State.dropWaiters (s : State) (x : CtxId) : State :=
  s.joins.foldl (fun s e =>
    let t := s.join e.1
    let gone := t.waiters.filter fun w => w.1.rcd.ctx == x && w.1.released.isSome
    let rest := t.waiters.filter fun w => !(w.1.rcd.ctx == x && w.1.released.isSome)
    let s := s.setJoin e.1 (if t.own = some x then { t with own := none, waiters := [] } else { t with waiters := rest })
    let s := gone.foldl (fun s w => s.dropQRec w.1) s
    if t.own = some x then rest.foldl (fun s w => s.dropWaiter e.1 w.1) s else s) s

/-- Suspended claims of a context dropped (R355). -/
def State.dropClaims (s : State) (x : CtxId) : State :=
  (upto 64).foldl (fun s n =>
    match s.stream n with
    | none => s
    | some t =>
      if t.ctx ≠ x then s
      else
        let gone := t.waiters.filter fun w => w.1.released.isSome
        let s := s.setStream n (some { t with waiters := t.waiters.filter fun w => w.1.released.isNone })
        gone.foldl (fun s w => s.dropQRec w.1) s) s

/-- Strands of a context saved on cores dropped. -/
def State.dropSaved (s : State) (x : CtxId) : State :=
  (upto 512).foldl (fun s c =>
    let c : CoreId := BitVec.ofNat 9 c
    match ((s.core c).pctxOf x).saved with
    | none => s
    | some p =>
      let s := s.onCore c fun k => k.onPctxOf x fun q => { q with saved := none }
      s.dropRecord p.run.launch p.run.rcd p.run.frozen p.run.split) s

/-- Every lock of a context is released (R169). -/
def State.dropLocks (s : State) (x : CtxId) : State :=
  let f (e : Nat × Option SLine) : Nat × Option SLine :=
    (e.1, e.2.map fun l => { l with holders := l.holders.filter fun y => y != x })
  { s with slines := s.slines.map f }.onCtx x fun c => { c with held := 0 }

/-- A context's launches end with DBLFAULT: at once where none of their records lives (R243). -/
def State.failLaunches (s : State) (x : CtxId) : State :=
  let ids := (s.launches.filter fun l => l.ctx == x && l.step != .closing).map (·.id)
  let s := { s with
    launches := s.launches.map (fun l => if l.ctx = x ∧ l.step ≠ .closing then { l with cause := some .dblfault } else l)
    joins := s.joins.map fun e => (e.1, { e.2 with parked := e.2.parked.filter fun i => !ids.contains i }) }
  ids.foldl (fun s id =>
    match s.launch id with
    | some l => if l.live = 0 then s.completeLaunch id else s
    | none => s) s

/-- A context is terminated on the die: an extra harvest and a reading of KIND 2 end it (R243, R379, R392). Its NCS stands
on every core, also when the host enables it again: the spec does not say when a context is created (R30; DESIGN CHOICE,
log 48). -/
def State.terminate (s : State) (x : CtxId) : State :=
  let s := s.onCtx x fun c => { c with dead := true, ena := false }
  let s : State := { s with cores := s.cores.map fun k => { k with cp := { k.cp with
    cache := k.cp.cache.filter fun e => e.1 != x } } }
  let s := s.failLaunches x
  let s := (upto 64).foldl (fun s k => s.dropQueued x (BitVec.ofNat 6 k)) s
  (((((s.dropWaiters x).dropClaims x).dropSaved x).dropLocks x).harvestCtx x).makeReading x.toNat 2

/-! ### Watchdogs and the slice limit (R168, R248) -/

/-- A fault on a core that freezes, or whose bundle is in decode: begun flag 0, the slot and the address of R168. A forming phase
loses its cluster; an active one goes on until its strand has ended (R280, R285, R288). -/
def State.strike (s : State) (c : CoreId) (e : Cause) : State :=
  let s := if (s.cluster (clusterOf c)).hedge.active then s else s.leaveHedge c
  let k := s.core c
  let (slot, va) := if k.bs.frozenSince.isSome then (k.bs.wdSlot, k.bs.wdVa) else (0, 0)
  let k : Core := { k with bs := { k.bs with dropping := false } }
  ((s.setCore c (k.raise e va slot false)).unwait c).deliverFault c

/-- Freezes of a bundle, of its end and of step 1 of a suspension or a switch are measured (R124, R168). -/
def Phase.measured : Phase → Bool
  | .run | .ending | .leaving _ | .switching => true
  | _ => false

/-- A watchdog fires once its freeze has reached the limit (R168). -/
def State.watchdog (s : State) (c : CoreId) (e : Cause) : State :=
  let k := s.core c
  match k.bs.frozenSince with
  | none => s
  | some t =>
    let n := s.die.timer.at s.now - s.die.timer.at t
    let limit := if e = .pipewd then s.die.pwdl else s.die.fwdl
    if limit ≤ n ∧ k.phase.measured ∧ k.bs.pipeWait = (e == .pipewd) then (s.withdraw c).strike c e else s

/-- The core is between bundles, or its bundle is frozen. -/
def Core.atBoundary (k : Core) : Bool :=
  match k.phase with
  | .run => !k.bs.committed
  | .ending => k.bs.frozenSince.isSome
  | _ => false

/-- SLICEOVR: no safe point within OVRL ticks of the budget's end. A gang member is not switched (R248, R278). -/
def State.sliceLimit (s : State) (c : CoreId) : State :=
  let k := s.core c
  let stop := k.sliceFrom + 5 * (k.budget + (s.ctx k.ctx).ovrl.toNat)
  match k.run with
  | none => s
  | some r =>
    if !k.inSlice || r.gang.isSome || decide (s.now < stop) then s
    else match k.phase with
      | .leaving _ => s
      | .switching => s
      | _ =>
        if k.atBoundary then
          (s.onCore c fun k => k.onPctx fun p => { p with odebt := (s.ctx k.ctx).ovrl.toNat }).strike c .sliceovr
        else s.schedule (Nat.max (s.now + 5) k.time) (.sliceovr c)

/-! ### Steps -/

/-- CAPST (R236). -/
def execCapst (m : Mv) (s : State) : Host.Outcome State Fault Refusal := runMove (.capst m) commitCapst s
/-- TRAP (R241). -/
def execTrap (m : Mv) (s : State) : Host.Outcome State Fault Refusal := runMove (.trap m) commitTrap s
/-- BRK (R241). -/
def execBrk (m : Mv) (s : State) : Host.Outcome State Fault Refusal := runMove (.brk m) commitBrk s
/-- ECNT (R257). -/
def execEcnt (m : Mv) (s : State) : Host.Outcome State Fault Refusal := runMove (.ecnt m) (commitEcnt m.k) s
/-- NCSR (R255). -/
def execNcsr (m : Mv) (s : State) : Host.Outcome State Fault Refusal := runMove (.ncsr m) (commitNcsr m.k) s
/-- NCSW (R255). -/
def execNcsw (clr : Bool) (m : Mv) (s : State) : Host.Outcome State Fault Refusal :=
  runMove (.ncsw clr m) (commitNcsw clr) s
/-- SYSR (R245). -/
def execSysr (m : Mv) (s : State) : Host.Outcome State Fault Refusal := runMove (.sysr m) (commitSysr m.k) s
/-- SYSW (R245). -/
def execSysw (m : Mv) (s : State) : Host.Outcome State Fault Refusal := runMove (.sysw m) commitSysw s
/-- CAPR (R240). -/
def execCapr (f : CapField) (m : Mv) (s : State) : Host.Outcome State Fault Refusal :=
  runMove (.capr f m) (commitCapr f m.k) s

/-- The revocations a core waits for take place when no access is outstanding (R159). -/
def execRevoke (c : CoreId) (s : State) : Host.Outcome State Fault Refusal := .next (s.revokeReady c)

/-- A context's counter on a core is preset (R258, R378). -/
def execEcsetPreset (c : CoreId) (x : CtxId) (v : W64) (s : State) : Host.Outcome State Fault Refusal :=
  .next (if v.toNat < 2 ^ 48 then s.presetCounter c x v else s)

/-- Trap entry: the core waits for results with a latch, then enters the handler (R231). -/
def execTrapEntry (c : CoreId) (s : State) : Host.Outcome State Fault Refusal :=
  let s := s.landCore c
  let k := s.core c
  match k.phase with
  | .faulting r =>
    let s := s.revokeReady c
    if !(s.core c).quietLatches then .next (s.engineCycles c true 1)
    else .next (s.trapEntryNow c r)
  | _ => .next s

/-- A strand ended by a fault: step 1 of R124, the discard, the report (R242). -/
def execStrandEndFault (c : CoreId) (s : State) : Host.Outcome State Fault Refusal :=
  let s := s.landCore c
  match (s.core c).phase with
  | .faulting r =>
    let s := s.revokeReady c
    if !s.strandQuiet c || (s.core c).revoking then .next (s.waitCycle c)
    else .next ((s.reportFault c r).discardStrand c (some r.cause))
  | _ => .next s

/-- DBLFAULT: the context of a core is terminated; a strand of a terminated context is discarded (R243). -/
def execDblfault (c : CoreId) (s : State) : Host.Outcome State Fault Refusal :=
  let k := s.core c
  if (s.ctx k.ctx).dead then .next (s.discardStrand c (some .dblfault))
  else match k.phase with
    | .faulting r =>
      if k.revoking then .next ((s.engineCycles c true 1).revokeReady c)
      else if k.masked || r.cause == .dblfault then
        .next (((s.reportFault c { r with cause := .dblfault }).terminate k.ctx).discardStrand c (some .dblfault))
      else .next s
    | _ => .next s

/-- The freeze watchdog (R168). -/
def execWdfreeze (c : CoreId) (s : State) : Host.Outcome State Fault Refusal := .next (s.watchdog c .wdfreeze)
/-- The pipe watchdog (R168). -/
def execPipewd (c : CoreId) (s : State) : Host.Outcome State Fault Refusal := .next (s.watchdog c .pipewd)
/-- The slice limit (R248). -/
def execSliceovr (c : CoreId) (s : State) : Host.Outcome State Fault Refusal := .next (s.sliceLimit c)

end Sys2Proof.Machine
end

