-- ==== Sys2Proof/Machine/Slots.lean ====
section
/-! DEFINITION. The commit of each move a slot holds (R57, R65). Steps that are no moves of a bundle commit
nothing in a slot. -/

namespace Sys2Proof.Machine

/-- What a slot's move does at commit, its source value read. -/
def commitMove (i : Instr) (v : V512) (s : State) : Commit :=
  match i with
  | .moveToRegister src dst => commitMoveToRegister src dst v s
  | .operandPortWrite _ p => commitOperandPortWrite p v s
  | .nullMove _ _ _ _ => commitNullMove v s
  | .push _ w => commitPush w v s
  | .add u f m => commitAdd u f m.k v s
  | .sub u f m => commitSub u f m.k v s
  | .mul u f m => commitMul u f m.k v s
  | .mulh u f m => commitMulh u f m.k v s
  | .div u f m => commitDiv u f m.k v s
  | .rem u f m => commitRem u f m.k v s
  | .and u f m => commitAnd u f m.k v s
  | .or u f m => commitOr u f m.k v s
  | .xor u f m => commitXor u f m.k v s
  | .andn u f m => commitAndn u f m.k v s
  | .shl u f m => commitShl u f m.k v s
  | .shr u f m => commitShr u f m.k v s
  | .sar u f m => commitSar u f m.k v s
  | .rol u f m => commitRol u f m.k v s
  | .min u f m => commitMin u f m.k v s
  | .max u f m => commitMax u f m.k v s
  | .cmp u f m => commitCmp u f m.k v s
  | .clz u f m => commitClz u f m.k v s
  | .ctz u f m => commitCtz u f m.k v s
  | .popc u f m => commitPopc u f m.k v s
  | .ext u f m => commitExt u f m.k v s
  | .bswap u f m => commitBswap u f m.k v s
  | .adds u f m => commitAdds u f m.k v s
  | .subs u f m => commitSubs u f m.k v s
  | .pass u f m => commitPass u f m.k v s
  | .jmp t _ => commitJmp t v s
  | .bz t _ => commitBz t v s
  | .bnz t _ => commitBnz t v s
  | .call t m => commitCall t m.k v s
  | .loop _ => commitLoop v s
  | .lpop _ => commitLpop v s
  | .lcnt m => commitLcnt m.k v s
  | .lset _ => commitLset v s
  | .ld z m => commitLd z m.k v s
  | .st z _ => commitSt z v s
  | .lda z sc m => commitLda z sc m.k v s
  | .strl z sc _ => commitStrl z sc v s
  | .fence f sc _ => commitFence f sc v s
  | .atom op m => commitAtom op m.k v s
  | .clrd m => commitClrd m.k v s
  | .cms m => commitCms m.k v s
  | .lock m => commitLock m.k v s
  | .unlock _ => commitUnlock v s
  | .trn _ => commitTrn v s
  | .pf l2 _ => commitPf l2 v s
  | .wb _ => commitWb v s
  | .inv _ => commitInv v s
  | .hinfo f m => commitHinfo f m.k v s
  | .vadd t m => commitVadd t m.k v s
  | .vsub t m => commitVsub t m.k v s
  | .vmul t m => commitVmul t m.k v s
  | .vfma t m => commitVfma t m.k v s
  | .vfms t m => commitVfms t m.k v s
  | .vfnma t m => commitVfnma t m.k v s
  | .vmin t m => commitVmin t m.k v s
  | .vmax t m => commitVmax t m.k v s
  | .vabs t m => commitVabs t m.k v s
  | .vneg t m => commitVneg t m.k v s
  | .vrcp m => commitVrcp m.k v s
  | .vrsqrt m => commitVrsqrt m.k v s
  | .vexp2 m => commitVexp2 m.k v s
  | .vlog2 m => commitVlog2 m.k v s
  | .vsqrt m => commitVsqrt m.k v s
  | .vcmpeq t m => commitVcmpeq t m.k v s
  | .vcmplt t m => commitVcmplt t m.k v s
  | .vcmple t m => commitVcmple t m.k v s
  | .vcmpun t m => commitVcmpun t m.k v s
  | .vsel f m => commitVsel f m.k v s
  | .vand m => commitVand m.k v s
  | .vor m => commitVor m.k v s
  | .vxor m => commitVxor m.k v s
  | .vshl m => commitVshl m.k v s
  | .vshr f m => commitVshr f m.k v s
  | .vcvt c m => commitVcvt c m.k v s
  | .vnarrow f m => commitVnarrow f m.k v s
  | .vwiden f m => commitVwiden f m.k v s
  | .vrsum t m => commitVrsum t m.k v s
  | .vrmax t m => commitVrmax t m.k v s
  | .vrmin t m => commitVrmin t m.k v s
  | .vbcast f m => commitVbcast f m.k v s
  | .vperm m => commitVperm m.k v s
  | .vext f m => commitVext f m.k v s
  | .vins m => commitVins m.k v s
  | .vrot m => commitVrot m.k v s
  | .vld m => commitVld m.k v s
  | .vst _ => commitVst v s
  | .vgth f m => commitVgth f m.k v s
  | .vsct mem _ => commitVsct mem v s
  | .vpl op _ => commitVpl op v s
  | .mld resume _ => commitMld resume v s
  | .mst _ => commitMst v s
  | .mmac p _ => commitMmac p v s
  | .mzero _ => commitMzero v s
  | .mhad _ => commitMhad v s
  | .mdrain q1 _ => commitMdrain q1 v s
  | .mcfg _ => commitMcfg v s
  | .mldc _ => commitMldc v s
  | .mwait _ => commitMwait v s
  | .sgLim _ => commitSgLim v s
  | .sgScl _ => commitSgScl v s
  | .sgPass _ => commitSgPass v s
  | .sgStat f m => commitSgStat f m.k v s
  | .sgWait _ => commitSgWait v s
  | .cpGo out _ => commitCpGo out v s
  | .cpFence _ => commitCpFence v s
  | .cpStat wait m => commitCpStat wait m.k v s
  | .cpUiv _ => commitCpUiv v s
  | .gaGth _ => commitGaGth v s
  | .gaSct _ => commitGaSct v s
  | .gaStat wait m => commitGaStat wait m.k v s
  | .gaMode _ => commitGaMode v s
  | .uiret _ => commitUiret v s
  | .qlvl free m => commitQlvl free m.k v s
  | .qwait room _ => commitQwait room v s
  | .pseq m => commitPseq m.k v s
  | .ringacq m => commitRingacq m.k v s
  | .ringrel _ => commitRingrel v s
  | .ringst f m => commitRingst f m.k v s
  | .hbar _ => commitHbar v s
  | .xmit d _ => commitXmit d v s
  | .xsel d _ => commitXsel d v s
  | .hend _ => commitHend s
  | .post _ => commitPost v s
  | .yield _ => commitYield v s
  | .wait _ => commitWait v s
  | .endStrand _ => commitEnd v s
  | .arga m => commitArga m.k v s
  | .jinit _ => commitJinit v s
  | .jdec _ => commitJdec v s
  | .hashu m => commitHashu m.k v s
  | .snap m => commitSnap m.k v s
  | .snfind m => commitSnfind m.k v s
  | .snpin m => commitSnpin m.k v s
  | .snrel m => commitSnrel m.k v s
  | .snstat f m => commitSnstat f m.k v s
  | .kvadv _ => commitKvadv v s
  | .kvpin _ => commitKvpin v s
  | .strd f m => commitStrd f m.k v s
  | .capst _ => commitCapst v s
  | .tret _ => commitTret v s
  | .trap _ => commitTrap v s
  | .brk _ => commitBrk v s
  | .clkdiv d _ => commitClkdiv d v s
  | .ecnt m => commitEcnt m.k v s
  | .ncsr m => commitNcsr m.k v s
  | .ncsw clr _ => commitNcsw clr v s
  | .sysr m => commitSysr m.k v s
  | .sysw _ => commitSysw v s
  | .capr f m => commitCapr f m.k v s
  | .bundleExecute .. | .intResultDelivery .. | .loadReply .. | .sliceOpPerform .. | .vectorResultDelivery .. | .gatherLaneReply ..
  | .transferRetire .. | .transferStop .. | .arrayRetire .. | .drainRowPush .. | .drainRetire .. | .mldcLand ..
  | .sedgeLineArrive .. | .sedgeIssueCycle .. | .sedgeRowPush .. | .sedgePassEnd .. | .sedgePassFail .. | .copyLineReply ..
  | .copyComplete .. | .gatherOpComplete .. | .uiTake .. | .pipeEntryArrive .. | .phaseStart .. | .linkWordArrive ..
  | .phaseEnd .. | .tkResultDelivery .. | .revoke .. | .ecsetPreset .. | .trapEntry .. | .strandEndFault ..
  | .dblfault .. | .wdfreeze .. | .pipewd .. | .segmentExpanded .. | .pickup .. | .gangRelease ..
  | .sliceExpire .. | .contextSwitch .. | .sliceovr .. | .launchNop .. | .launch .. | .launchGang ..
  | .streamOpen .. | .streamClose .. | .launchUnpark .. | .launchStartDue .. | .recordRelease .. | .commandDoorbell ..
  | .hostRegisterWrite .. | .gtset .. | .bkenEnable .. | .bkenDisable .. | .snapshotExport | .snapshotImport
  | .snapshotUnpin | .attest | .energyReading | .fetchReading | .rrel .. | .replay ..
  | .totalClr .. | .decodeJob .. | .decodeJobDone .. | .encoderEntryArrive .. | .encoderTakeEntry .. | .frameCoded ..
  | .hostWriteArrive .. | .retentionEntry .. | .retentionWake .. | .sliceTagError .. | .ptmExchange .. | .ptmHoldover
  | .pressureRaise .. | .pressureLower .. | .ageingCheck .. | .harvest | .thermwarn .. | .emergencySave
  | .railCut | .thermalTripClear .. | .powerUp .. | .sliceAccessServe .. | .hostSnoop .. | .emptyLaunchComplete .. => .ok s

/-- A slot's commit with what bars it, its charge included (R65, R256, R281). -/
def slotCommit (i : Instr) (s : State) : Commit :=
  match s.slotValue i with
  | .val v => s.guardMove i (commitMove i v (s.chargeSlot i))
  | .freeze w => .freeze w
  | .fault c a => .raise c a

end Sys2Proof.Machine
end

