-- ==== Sys2Proof/Machine/BundleEnd.lean ====
section
/-! DEFINITION. The end of a bundle: pops, loop close, rotation, the next bundle, TRET, UIRET, clock changes,
phases, and how a strand leaves or a context is switched there (R26, R67, R115, R117, R124, R159, R182, R237,
R238, R247 to R249, R253, R254). -/

namespace Sys2Proof.Machine

/-! ### Pops (R67, R200, R218, R277) -/

/-- The heads POP names. -/
def Core.popped (k : Core) : List (Fin 8) := (List.finRange 8).filter fun i => (hdrPop k.bs.hdr).getLsbD i.val

/-- What the pops of a bundle meet: the fault of the lowest empty head, and what empty heads wait for. -/
def State.popHazards (s : State) : Option (Cause × Option W64) × List Wait :=
  s.me.popped.foldr (fun n p =>
    match s.head n with
    | .entry .. => p
    | .empty (.fault c a) => (some (c, a), p.2)
    | .empty (.freeze w) => (p.1, w :: p.2)
    | .empty (.val _) => p) (none, [])

/-- A head advances once; the space of a pipe's entry returns to its producer some time later (R277). -/
def State.popHead (s : State) (n : Fin 8) : State :=
  if n.val = 0 then s.onMe fun k => { k with q0 := k.q0.tail }
  else if n.val = 1 then s.onMe fun k => { k with q1 := k.q1.tail }
  else if n.val = 2 then s.onMe fun k => { k with q2 := k.q2.tail }
  else if n.val = 3 then s.onMe fun k => { k with q3 := k.q3.tail }
  else match s.me.inPipe[n.val - 4]?.join with
    | none => s
    | some i =>
      let t := s.me.time + 60
      s.onCluster (clusterOf s.cur) fun c =>
        match c.pipes[i]?.join with
        | some p => c.setPipe i (some { p with entries := p.entries.tail, freed := p.freed ++ [t] })
        | none => c

/-! ### The next bundle (R67, R115, R117) -/

/-- Control leaves the segment when no branch decides (R74). -/
def Core.fallsOff (k : Core) : Bool := hdrKind k.bs.hdr == 5 || decide (k.bcnt ≤ k.pc.bix.toNat + 1)

/-- The next bundle and the loop stack once the bundle has ended. -/
def Core.endPlan (k : Core) : Target × List LoopEntry :=
  let un (t : Target) : List LoopEntry := if k.ui.active then k.loops else unwind t k.loops
  match k.bs.branch with
  | some t => (t, un t)
  | none =>
    if hdrKind k.bs.hdr = 3 ∨ hdrKind k.bs.hdr = 4 then
      match k.loops with
      | [] => (k.following, [])
      | e :: r =>
        let n := if e.count = 0 then 0 else e.count - 1
        if n ≠ 0 then (⟨e.seg, e.start⟩, { e with count := n } :: r)
        else
          let t := k.afterIndex e.endB.toNat
          (t, if e.endB.toNat + 1 < k.bcnt then r else unwind t r)
    else (k.following, if k.fallsOff then un k.following else k.loops)

/-- A loop close is refused: inside a handler, on an empty stack, or off its entry (R115, R181). -/
def Core.closeFault (k : Core) : Option Cause :=
  if hdrKind k.bs.hdr ≠ 3 ∧ hdrKind k.bs.hdr ≠ 4 then none
  else if k.ui.active then some .illopd
  else match k.loops with
    | [] => some .loopstk
    | e :: _ => if e.seg = k.pc.seg ∧ e.endB = k.pc.bix then none else some .loopstk

/-- The fault of a bundle's end, slot-resume 8 (R67, R74, R115, R237). -/
def State.endFault (s : State) : Option (Cause × Option W64) :=
  let k := s.me
  match s.popHazards.1 with
  | some e => some e
  | none =>
    match k.closeFault with
    | some c => some (c, none)
    | none =>
      if hdrKind k.bs.hdr = 2 ∧ k.masked ∧ !k.capst then some (.illopd, none)
      else if k.endPlan.1.seg = 0 ∧ k.bs.tret.isNone ∧ !k.bs.uiret ∧ k.bs.leave ≠ some .endStrand
      then some (.illenc, none) else none

/-- A fault raised at the bundle's end: a strand that was to leave does not (R66, R124). -/
def State.faultAtEnd (s : State) (c : Cause) (a : Option W64) : State :=
  (s.withdraw s.cur).fault c a 8 true

/-- The fault of an empty head that a pop names reports the failed pass behind q2 (R218, R220). -/
def State.notePop (s : State) : State :=
  let bad := s.me.popped.find? fun n => match s.head n with | .empty (.fault ..) => true | _ => false
  if bad = some 2 then s.applyReport .sedge else s

/-- POP and KIND of a bundle's header set: of a re-entered one those of its capsule (R238), of one that has ended none
to act again (R67). -/
def reenteredHeader (h : BitVec 64) (r : Option (BitVec 8 × BitVec 4)) : BitVec 64 :=
  match r with
  | none => h
  | some (pop, kind) => BitVec.ofNat 64 (setBits (setBits h.toNat 56 8 pop.toNat) 52 4 kind.toNat)

/-- Steps 1 and 2 of R67, and the unwinding of step 3. -/
def State.endActions (s : State) : State :=
  let loops := s.me.endPlan.2
  let s := s.me.popped.foldl State.popHead s
  s.onMe fun k => { k with
    loops := loops
    vrb := if hdrKind k.bs.hdr = 4 then (k.vrb + 31) % 32 else k.vrb
    prb := if hdrKind k.bs.hdr = 4 then (k.prb + 7) % 8 else k.prb }

/-- All of R67's actions: the bundle then holds its choice of the next one, and nothing that would act again. -/
def State.finishBundle (s : State) : State :=
  let t := s.me.endPlan.1
  s.endActions.onMe fun k => { k with
    masked := if hdrKind k.bs.hdr = 2 then false else k.masked
    bs := { k.bs with branch := some t, hdr := reenteredHeader k.bs.hdr (some (0, 0)) } }

/-! ### Clock changes and other waits (R253, R254) -/

def PerCtx.div (p : PerCtx) : Dom → Nat
  | .ctl => p.divCtl
  | .vec => p.divVec
  | .mat => p.divMat
  | .cpy => p.divCpy

def PerCtx.setDiv (p : PerCtx) (d : Dom) (v : Nat) : PerCtx :=
  match d with
  | .ctl => { p with divCtl := v }
  | .vec => { p with divVec := v }
  | .mat => { p with divMat := v }
  | .cpy => { p with divCpy := v }

/-- No operation of a clock domain is in flight, an active Sedge pass excepted (R253). -/
def State.domainQuiet (s : State) (d : Dom) : Bool :=
  let k := s.me
  match d with
  | .ctl => (k.fl.all fun f => f.unit == .vx || f.unit == .qx) && (s.reqsOf s.cur).isEmpty
  | .vec => k.fl.all fun f => f.unit != .vx
  | .mat => k.mx.arr.isEmpty && k.mx.drn.isEmpty && k.mx.xfer.isEmpty && k.mx.mldc.isEmpty
  | .cpy => k.cp.active.isNone && k.cp.pending.isNone && k.ga.ops.isEmpty

/-- Stores of the core are still to be written in its L1. -/
def State.storesOut (s : State) : Bool := (s.reqsOf s.cur).any fun r => r.kind == .store

/-- What a change of a clock domain's divisor waits for. -/
def State.domainWait (s : State) (d : Dom) : Wait :=
  match d with
  | .ctl => s.waitOn fun _ => true
  | .vec => s.waitFor fun f => f.unit == .vx
  | .mat => .mx
  | .cpy => if s.me.cp.active.isSome then .copy else .gather

/-- What a revocation waits for: requests of the core to the page, or else the engines (R159, R168). -/
def State.waitOnPage (s : State) (x : CtxId) (va n : Nat) : Wait :=
  let mine (r : Req) : Bool := decide (r.id < n) && r.onPage x va
  if (s.reqsOf s.cur).any mine then s.waitOn mine else .order [] false

/-- What a wait of the bundle's end still waits for; none when it is over. -/
def State.waitLeft (s : State) (w : EndWait) : Option Wait :=
  let h := (s.cluster (clusterOf s.cur)).hedge
  match w with
  | .clkdiv d _ _ => if s.domainQuiet d then none else some (s.domainWait d)
  | .revoke x va n => if s.pageBusy x va.toNat n
      then some (s.waitOnPage x va.toNat n) else none
  | .stores => if s.storesOut then some (s.waitOn fun r => r.kind == .store) else none
  | .hbar => if h.active || h.strand != some s.cur then none else some .reg
  | .hend => if h.active then some .reg else none

/-- Scale loads in flight keep the control cycles they have left when the control divisor changes (R192, R253). -/
def State.retimeMldc (s : State) (old new : Nat) : State :=
  let t := s.me.time
  let l := s.me.mx.mldc.map fun e => if t < e.2.2 then (e.1, e.2.1, t + (e.2.2 - t) / old * new) else e
  l.foldl (fun s e => s.schedule e.2.2 (.mldcLand s.cur)) (s.onMx fun x => { x with mldc := l })

/-- A wait that is over takes effect. -/
def State.waitOver (s : State) (w : EndWait) : State :=
  match w with
  | .clkdiv d v b =>
      let s := if d = .ctl then s.retimeMldc s.me.pctx.divCtl v else s
      s.onMe fun k =>
        let k := k.onPctx fun p => p.setDiv d v
        if b then k.setLatch 11 v else k
  | .revoke x va _ => s.revokePage x va.toNat
  | .hbar => s
  | .hend => s
  | .stores => s

/-- Waits of the bundle's end that are over take effect. -/
def State.settleWaits (s : State) : State :=
  s.me.bs.waits.foldl (fun s w =>
    match s.waitLeft w with
    | some _ => s
    | none => (s.waitOver w).onMe fun k => { k with bs := { k.bs with waits := k.bs.waits.erase w } }) s

/-- All that a bundle's end waits for. -/
def State.endWaits (s : State) : List Wait :=
  let k := s.me
  s.popHazards.2 ++ k.bs.waits.filterMap s.waitLeft
    ++ (if hdrKind k.bs.hdr = 2 ∧ k.masked ∧ s.storesOut then [s.waitOn fun r => r.kind == .store] else [])

/-- The lowest slot from which a wait of the bundle's end comes: TRET's while its image is awaited; 0 where none does
(R168). -/
def State.endSlot (s : State) : Nat :=
  let l := (s.me.bs.waitFrom.filter fun e =>
    if s.me.bs.imageAt.isSome then e.1 == .stores else s.me.bs.waits.contains e.1 && (s.waitLeft e.1).isSome).map (·.2)
  l.foldl Nat.min (l.headD 0)

/-- A control cycle of waiting at a bundle's end, measured by the freeze watchdog (R167, R168, R184, R217). -/
def State.endFreeze (s : State) (w : List Wait) : State :=
  (s.onMe fun k =>
    let k := k.frozenCycle [.reg] s.endSlot (s.waitVa w)
    { k with phase := .ending }).runEngines s.cur (w.all (· == .mx)) (w.all (· == .sg))

/-! ### TRET and UIRET (R182, R238) -/

/-- The requests for the lines of an image at an address are made: 24 slots are taken until the last reply, which a line
that misses brings no earlier than the L1 would; the scratchpad answers as to a load (R164, R238, R286, R409). -/
def State.askImage (s : State) (a : Nat) : State :=
  let k := s.me
  if 2 ^ 64 ≤ a then s.onMe fun k => { k with bs := { k.bs with imageAt := some (k.time + 6 * k.cl) } }
  else
    let missed := ((upto 24).map fun i => a + 64 * i).filter fun b => (k.l1Find (lineOf b)).isNone
    let (d, s) := if missed.isEmpty then (0, s) else s.takeDelay Config.guideSlice
    let (w, s) := match s.wakeHomes missed with | some t => (54000, t) | none => (0, s)
    let t := k.time + Nat.max (d + w) (4 * k.cl)
    s.onMe fun k => { k with
      slotsHeld := List.replicate 24 t ++ k.slotsHeld.filter fun u => decide (s.now < u)
      bs := { k.bs with imageAt := some t } }

/-- A cycle of TRET's freeze, in which its image is asked for once there are request slots; none when the bytes have
come (R164, R238). -/
def State.imageWait (s : State) (a : Nat) : Option State :=
  match s.me.bs.imageAt with
  | some t => if s.me.time < t then some (s.endFreeze [.image s.me.bs.imageVa]) else none
  | none =>
    if a < 2 ^ 64 && slotsFull s 24 then some (s.endFreeze [s.waitOn fun r => r.kind.takesSlot])
    else some ((s.askImage a).endFreeze [.image s.me.bs.imageVa])

/-- The image TRET reads, through the L1 or from the scratchpad; the failure of the first bad line. -/
def State.readImage (s : State) (a : Nat) : State × Nat × Option Cause :=
  if 2 ^ 64 ≤ a then (s, s.me.spadRead (a - 2 ^ 64) 1536, if s.me.spadErr (a - 2 ^ 64) 1536 then some .eccunc else none)
  else
    let w := s.who s.cur
    (upto 24).foldl (fun (p : State × Nat × Option Cause) i =>
      let (s, x, b) := p.1.readThrough w (a + 64 * i) 64
      (s, p.2.1 + x * 2 ^ (512 * i), p.2.2.or b)) (s, 0, none)

/-- TRET acts: the image is read and checked, then the bundle's pops, then the re-entry (R238). -/
def State.tretEnd (s : State) (a : Nat) : State :=
  match s.imageWait a with
  | some t => t
  | none =>
  let (s, v, b) := s.readImage a
  match b with
  | some c => s.faultAtEnd c none
  | none =>
    let i := capImage v
    match i.refused s.me with
    | some c => s.faultAtEnd c none
    | none => s.endActions.reenterImage i

/-- UIRET acts: the banked set returns and the handler is left (R182); kind 2 unmasks traps (R67, R237). -/
def State.uiretEnd (s : State) : State :=
  s.endActions.onMe fun k =>
    ({ k with
      masked := if hdrKind k.bs.hdr = 2 then false else k.masked
      lat := k.ui.banked
      ports := k.ui.bankedPorts
      ui := { k.ui with active := false } } : Core).goTo k.ui.ret

/-! ### Leaving (R124 to R126, R327) -/

/-- A cycle of leaving, R67's actions done: step 1, then the checks of step 2 and of the release, then the rest. -/
def State.leaveCycle (s : State) (l : Leave) : State :=
  if !s.strandQuiet s.cur then s.waitCycle s.cur
  else
    let t := s.me.endPlan.1
    if l ≠ .endStrand ∧ l ≠ .dropped ∧ t.seg.toNat % 256 ≠ 0 then s.faultAtEnd .illopd none
    else match s.carriedRace with
      | some a => (s.applyReport .writeBacks).faultAtEnd .mmrace (some a)
      | none => s.leaveNow s.cur l t

/-- The strand begins to leave once R67's actions have run (R124): a pending switch starts here (R248). -/
def State.startLeave (s : State) (l : Leave) : State :=
  (((s.noteDebt s.cur s.me.time).finishBundle).onMe fun k => { k with phase := .leaving l }).leaveCycle l

/-! ### Safe points (R55, R247, R248, R278, R281) -/

/-- The end of the bundle is a safe point. -/
def State.atSafePoint (s : State) : Bool :=
  let k := s.me
  hdrKind k.bs.hdr == 1 && !k.ui.active && !s.inPhase && (k.run.bind (·.gang)).isNone && !k.masked

/-- The next context other than the running one that qualifies (R247). -/
def State.nextOther (s : State) (c : CoreId) : Option CtxId :=
  let x := (s.core c).ctx
  ((upto 15).map fun i => x + BitVec.ofNat 4 (i + 1)).find? fun y => s.qualifies c y

/-- The bundle has ended and the strand goes on at the next. -/
def State.endContinue (s : State) : State :=
  let t := s.me.endPlan.1
  s.finishBundle.onMe fun k => k.goTo t

/-- A switch is pending at a safe point: to another context, into a new slice of the running one, or to no context
when that may have none (R247, R248). -/
def State.endSwitch (s : State) : State :=
  let c := s.cur
  let x := s.me.ctx
  let s := s.noteDebt c s.me.time
  if (s.nextOther c).isNone && s.mayStart x then s.endContinue.beginSlice c x s.me.time
  else s.finishBundle.onMe fun k => { k with phase := .switching }

/-- A cycle of a bundle's end. Where one popped head is empty and freezes and another condition of the end faults (a second
empty head, or an empty loop stack), the fault is raised at once: R67 does not say which goes first (log 53). -/
def State.endCycle (s : State) : State :=
  let s := s.settleWaits
  match s.endFault with
  | some (c, a) => s.notePop.faultAtEnd c a
  | none =>
    match s.endWaits with
    | w :: r => s.endFreeze (w :: r)
    | [] =>
      let b := s.me.bs
      match b.tret with
      | some a => s.tretEnd a
      | none =>
        if b.uiret then s.uiretEnd
        else match b.leave with
          | some l => s.startLeave l
          | none => if s.atSafePoint && s.me.sliceOver s.me.time then s.endSwitch else s.endContinue

/-- The divisor of a domain once the bundle's CLKDIVs have taken effect. -/
def State.divAfter (s : State) (d : Dom) : Nat :=
  s.me.bs.waits.foldl (fun v w => match w with
    | .clkdiv e n _ => if e = d then n else v
    | _ => v) (s.me.pctx.div d)

/-- Divisors below DIVFL are raised at the end of the bundle in which the change is seen; none is lowered (R254). -/
def State.floorWaits (s : State) : List EndWait :=
  let f := s.floorOf s.cur
  [Dom.ctl, .vec, .mat, .cpy].filterMap fun d =>
    if s.divAfter d < f then some (.clkdiv d f false) else none

/-- Every slot has committed: the bundle's end begins (R65 phase 5). -/
def State.startEnd (s : State) : State :=
  let w := s.floorWaits
  (s.flushDeferred.onMe fun k => { k with
    phase := .ending
    bs := { k.bs with
      slot := 8
      committed := true
      frozenSince := none
      waits := k.bs.waits ++ w } }).endCycle

/-- A move whose effect is at its bundle's end, as a step: its commit, then the bundle's end (R65, R66). -/
def runMoveEnd (i : Instr) (f : V512 → State → Commit) (s : State) : Host.Outcome State Fault Refusal :=
  match s.slotValue i with
  | .freeze w => .next (s.freeze [w] s.me.bs.slot)
  | .fault c a => .next ((s.reportRead i).fault c a s.me.bs.slot false)
  | .val v =>
    match s.guardMove i (f v (s.chargeSlot i)) with
    | .ok t => .next t.startEnd
    | .early c a r => .next ((s.applyReport r).fault c (some a) s.me.bs.slot false)
    | .late c a r => .next ((s.applyReport r).fault c (some a) s.me.bs.slot true)
    | .raise c a => .next (s.fault c a s.me.bs.slot true)
    | .after t c a => .next (t.fault c (some a) (s.me.bs.slot + 1) true)
    | .freeze w => .next (s.freeze [w] s.me.bs.slot)

/-! ### The context switch (R249) -/

/-- A cycle of a context switch: step 1, the release, then save and restore. -/
def State.switchCycle (s : State) : State :=
  let c := s.cur
  if !s.strandQuiet c then s.waitCycle c
  else match s.carriedRace with
    | some a => (s.applyReport .writeBacks).faultAtEnd .mmrace (some a)
    | none =>
      let y := s.nextOther c
      if y.isNone && s.mayStart s.me.ctx then s.endContinue.beginSlice c s.me.ctx s.me.time
      else
        let t := s.me.endPlan.1
        let s := s.onMe fun k => { k with pc := t }
        ((s.eagerRelease.2).saveCtx c).enterCtx c y

/-! ### Steps -/

/-- YIELD (R121, R124). -/
def execYield (m : Mv) (s : State) : Host.Outcome State Fault Refusal := runMoveEnd (.yield m) commitYield s
/-- WAIT (R121, R125). -/
def execWait (m : Mv) (s : State) : Host.Outcome State Fault Refusal := runMoveEnd (.wait m) commitWait s
/-- END (R121, R126). -/
def execEndStrand (m : Mv) (s : State) : Host.Outcome State Fault Refusal := runMoveEnd (.endStrand m) commitEnd s
/-- TRET (R238). -/
def execTret (m : Mv) (s : State) : Host.Outcome State Fault Refusal := runMoveEnd (.tret m) commitTret s
/-- UIRET (R182). -/
def execUiret (m : Mv) (s : State) : Host.Outcome State Fault Refusal := runMoveEnd (.uiret m) commitUiret s
/-- CLKDIV (R253). -/
def execClkdiv (d : Dom) (m : Mv) (s : State) : Host.Outcome State Fault Refusal :=
  runMoveEnd (.clkdiv d m) (commitClkdiv d) s
/-- HBAR (R280). -/
def execHbar (m : Mv) (s : State) : Host.Outcome State Fault Refusal := runMoveEnd (.hbar m) commitHbar s
/-- HEND (R285). -/
def execHend (m : Mv) (s : State) : Host.Outcome State Fault Refusal := runMoveEnd (.hend m) (fun _ => commitHend) s

/-- A context switch at a safe point (R249), or the waits of step 1 on a core that an emergency save has stopped
(R387). -/
def execContextSwitch (c : CoreId) (s : State) : Host.Outcome State Fault Refusal :=
  let s := { s with cur := c }.landCore c
  .next (if s.me.phase = .switching then s.switchCycle
    else if s.die.saving.map (BitVec.ofNat 4) = some s.me.ctx then s.waitCycle c else s)

end Sys2Proof.Machine
end

