-- ==== Sys2Proof/Machine/Bundle.lean ====
section
/-! DEFINITION. Code segments, the loop buffer, and the execution of a bundle (R65 to R76, R86, R110). -/

namespace Sys2Proof.Machine

/-! ### Expansion (R71 to R73, R76) -/

/-- n pieces of 32 bytes of code at a virtual address: their bytes, or none where a piece has no present
mapping with PR (R73). -/
def State.codeBytes (s : State) (x : CtxId) : Nat → Nat → Option Nat
  | _, 0 => some 0
  | a, n + 1 =>
    match (if 2 ^ 56 ≤ a then none else s.present x a), s.codeBytes x (a + 32) n with
    | some m, some r => if m.pr then some (s.mem.read (m.phys a) 32 + 2 ^ 256 * r) else none
    | _, _ => none

/-- Lines of those pieces: served for the core at their slices, and whether one is poisoned (R73, R76, R322). -/
def State.codeLines (s : State) (c : CoreId) (x : CtxId) (a n : Nat) : State × Bool :=
  (upto n).foldl (fun (p : State × Bool) i =>
    match s.present x (a + 32 * i) with
    | none => p
    | some m =>
      let l := lineOf (m.phys (a + 32 * i))
      ((p.1.servePull l c).sliceTouch l (some x), p.2 || Tbl.get false s.poison l)) (s, false)

/-- The slots of a stored bundle, from its presence bits: placed slots, absent ones as the null move (R72). -/
def expandSlots (mask v : Nat) : Nat → Nat → Nat → Nat
  | 0, _, _ => 0
  | n + 1, k, o =>
    if mask.testBit k then getBytes v o 3 * 2 ^ (64 + 24 * k) + expandSlots mask v n (k + 1) (o + 3)
    else absentSlot.toNat * 2 ^ (64 + 24 * k) + expandSlots mask v n (k + 1) o

/-- Slots a presence byte stores. -/
def slotsStored (mask : Nat) : Nat := ((upto 8).filter fun i => mask.testBit i).length

/-- n stored bundles from offset o: the expanded bundles and the offset after them (R72). -/
def expandBundles (v : Nat) : Nat → Nat → List (BitVec 256) × Nat
  | 0, o => ([], o)
  | n + 1, o =>
    let mask := getBytes v (o + 8) 1
    let (r, e) := expandBundles v n (o + 9 + 3 * slotsStored mask)
    (BitVec.ofNat 256 (getBytes v o 8 + expandSlots mask v 8 0 (o + 9)) :: r, e)

/-- The segment a header and its stored bytes make; a bad format is ILLENC (R71, R73). -/
def makeSegment (addr : BitVec 56) (h v : Nat) : Segment :=
  let w (i : Nat) : Nat := getBytes h (8 * i) 8
  let next := w 0
  let alt := w 1
  let bcnt := bits (w 2) 7 0
  let slen := bits (w 2) 47 32
  let badHdr := decide (2 ^ 56 ≤ next) || decide (2 ^ 56 ≤ alt) || bits (w 2) 63 48 != 0 || bits (w 2) 15 9 != 0
    || w 3 != 0 || bcnt == 0 || decide (128 < bcnt) || bits (w 2) 31 16 != 32 * bcnt || next % 32 != 0 || alt % 32 != 0
  let (l, e) := if badHdr then ([], 0) else expandBundles v bcnt 0
  ⟨addr, BitVec.ofNat 56 next, BitVec.ofNat 56 alt, bit (w 2) 8,
    if badHdr || e != slen then some .illenc else none, l⟩

/-- A segment that cannot be fetched. -/
def brokenSegment (addr : BitVec 56) (c : Cause) : Segment := ⟨addr, 0, 0, false, some c, []⟩

/-- The expansion of a segment of a context for a core (R73, R76). Of the faults it meets, LEASE is reported before
ECCUNC and ECCUNC before ILLENC (log 16). -/
def State.expand (s : State) (c : CoreId) (x : CtxId) (addr : BitVec 56) : State × Segment :=
  let a := addr.toNat
  match s.codeBytes x a 1 with
  | none => (s, brokenSegment addr .lease)
  | some h =>
    let n := (bits (getBytes h 16 8) 47 32 + 31) / 32
    match s.codeBytes x (a + 32) n with
    | none => (s, brokenSegment addr .lease)
    | some v =>
      let (s, bad) := s.codeLines c x a (n + 1)
      (s, if bad then brokenSegment addr .eccunc
        else makeSegment addr h (v % 2 ^ (8 * bits (getBytes h 16 8) 47 32)))

/-! ### The loop buffer (R75) -/

def Half.holds (h : Half) (a : BitVec 56) : Bool :=
  match h with
  | .empty => false
  | .expanding b _ => b == a
  | .full g => g.addr == a

def Half.isFull (h : Half) (a : BitVec 56) : Bool := match h with | .full g => g.addr == a | _ => false

/-- The expander begins a segment in a half: the fetch's latency, then two bundles a control cycle (R76). -/
def State.startExpand (s : State) (h : Fin 2) (a : BitVec 56) : State :=
  let (d, s) := s.takeDelay Config.guideCode
  let k := s.me
  let n := match s.codeBytes k.ctx a.toNat 1 with | some v => getBytes v 16 1 | none => 0
  let lines := (upto 33).filterMap fun i => (s.present k.ctx (a.toNat + 128 * i)).map fun m => m.phys (a.toNat + 128 * i)
  let wanted := lines.take (1 + (match s.codeBytes k.ctx a.toNat 1 with | some v => getBytes v 20 2 / 128 + 1 | none => 0))
  let (w, s) := match s.wakeHomes wanted with | some t => (54000, t) | none => (0, s)
  let t := k.time + d + w + (n + 1) / 2 * k.cl
  (s.onMe fun k => { k with
    halves := k.halves.set h.val (.expanding a t)
    halfCtx := k.halfCtx.set h.val k.ctx }).schedule t (.segmentExpanded s.cur)

/-- The predicted successor of the executing segment is fetched into the other half (R75). -/
def State.prefetch (s : State) : State :=
  let k := s.me
  match k.segment with
  | none => s
  | some g =>
    let n := if g.apf && g.alt != 0 then g.alt else g.next
    let o := 1 - k.cur
    if n = 0 || g.bad.isSome || (k.half o).holds n then s else s.startExpand o n

/-- The executing bundle's segment is resident: it becomes the executing segment, and the prefetch of its successor
begins where control has come to it by a transfer, a pick-up or a restore; or its expansion is awaited (R75). -/
def State.findSegment (s : State) : Bool × State :=
  let k := s.me
  let a := k.pc.seg
  if (k.half k.cur).isFull a then (true, if k.bs.arrived && k.bs.level.isNone then s.prefetch else s)
  else
    let o := 1 - k.cur
    if (k.half o).isFull a then (true, (s.onMe fun k => { k with cur := o }).prefetch)
    else if (k.half k.cur).holds a || (k.half o).holds a then (false, s)
    else (false, s.startExpand o a)

/-- The half of a failed segment is given up, so that a later transfer fetches it again. -/
def State.dropHalf (s : State) : State := s.onMe fun k => { k with halves := k.halves.set k.cur.val .empty }

/-! ### A bundle (R65, R66, R69, R70) -/

/-- The source value of slot i: none for a slot that a re-entered bundle skips (R65, R68, R239). -/
def State.readSlot (s : State) (n : Nat) (i : Instr) : ReadRes :=
  if n < s.me.bs.resume then .val 0
  else match s.me.bs.ops[n]?.join with
    | some v =>
      let isH : Bool := (i.src?.map fun q => q.cls == .h).getD false
      .val (if isH then BitVec.ofNat 512 (s.revalidate (BitVec.ofNat 128 v.toNat)).toNat else v)
    | none => s.readSource i

/-- What slots find before anything commits: hazards, and faults that fall before the commits. -/
structure Findings where
  waits : List (Nat × Wait)
  faults : List (Nat × Cause × Option W64 × Option Report)
deriving DecidableEq, Repr

/-- The source values a bundle has read; none for a slot that a re-entered bundle skips or that did not read. -/
def opsOf (resume : Nat) (vals : List ReadRes) : Vector (Option V512) 8 :=
  Vector.ofFn fun n =>
    if n.val < resume then none
    else match vals[n.val]? with | some (.val v) => some v | _ => none

/-- The bundle with its sources read, ready to commit (R48, R65 phase 3). A bundle that TRET re-enters with slots
begun keeps what it had read before its trap (R68). -/
def State.armBundle (s : State) (vals : List ReadRes) : State :=
  s.onMe fun k => { k with bs := { k.bs with
    committed := true
    slot := 0
    frozenSince := none
    pipeWait := false
    ncs0 := match k.bs.kept with | some e => e.1 | none => k.pctx.ncs
    ec0 := match k.bs.kept with | some e => e.2.1 | none => ecntForm k.pctx.ec.toNat k.pctx.satf
    f0 := match k.bs.kept with | some e => e.2.2 | none => k.rf.f
    since := some s.nextId
    vxOld := []
    ops := opsOf k.bs.resume vals } }

/-- Slot i freezes on what stands before its bundle: with the ports the slots before it have set, and nothing that
they start (R65 phase 2). -/
def freezesBefore (base s : State) (i : Instr) : Bool :=
  match slotCommit i (base.onMe fun k => { k with ports := s.me.ports, bs := s.me.bs }) with
  | .freeze _ => true
  | _ => false

/-- A move to a push port. -/
def pushMove : Instr → Bool
  | .push .. => true
  | _ => false

/-- Slots tried in order on a copy of the state: those that freeze, and those whose report falls before the
commits (R65 phase 2, R166, R327). A slot that only what its own bundle starts would delay is no hazard of phase
2: it commits, or waits at its own commit (R59); but the queue or pipe of a push needs room for every entry that the
bundle pushes to it (R21). -/
def trySlots (base : State) : State → List Instr → List ReadRes → Nat → Findings → Findings
  | _, [], _, _, f => f
  | s, i :: r, vals, n, f =>
    let s := s.onMe fun k => { k with bs := { k.bs with slot := n } }
    match vals.headD (.val 0) with
    | .freeze w => trySlots base s r vals.tail (n + 1) { f with waits := f.waits ++ [(n, w)] }
    | .fault c a => trySlots base s r vals.tail (n + 1) { f with faults := f.faults ++ [(n, c, a, none)] }
    | .val _ =>
      if n < s.me.bs.resume then trySlots base s r vals.tail (n + 1) f
      else match slotCommit i s with
        | .ok t => trySlots base t r vals.tail (n + 1) f
        | .after t _ _ => trySlots base t r vals.tail (n + 1) f
        | .freeze w => trySlots base s r vals.tail (n + 1)
            (if pushMove i || freezesBefore base s i then { f with waits := f.waits ++ [(n, w)] } else f)
        | .early c a p => trySlots base s r vals.tail (n + 1) { f with faults := f.faults ++ [(n, c, some a, some p)] }
        | .raise _ _ => trySlots base s r vals.tail (n + 1) f
        | .late _ _ _ => trySlots base s r vals.tail (n + 1) f

/-- A bundle that freezes among its commits performs its scratchpad accesses once a load of theirs is due, since the
slot that freezes may name its destination (R153, R165). -/
def State.performDue (s : State) : State :=
  let k := s.me
  let due (d : Deferred) : Bool := k.fl.any fun f => d.flight == some f.id && f.due.any fun t => decide (t ≤ k.time)
  if k.bs.deferred.any due then s.flushDeferred else s

/-- At most n slots commit; false when the bundle has stopped (R65 phase 4, R66). -/
def commitSlots : Nat → List Instr → State → Bool × State
  | 0, _, s => (true, s)
  | n + 1, l, s =>
    let k := s.me.bs.slot
    match l[k]? with
    | none => (true, s)
    | some i =>
      let advance (t : State) : State := t.onMe fun c => { c with bs := { c.bs with slot := k + 1 } }
      if k < s.me.bs.resume then commitSlots n l (advance s)
      else match slotCommit i s with
        | .ok t => commitSlots n l (advance t)
        | .raise c a => (false, s.fault c a k true)
        | .after t c a => (false, t.fault c (some a) (k + 1) true)
        | .early c a r => (false, (s.applyReport r).fault c (some a) k false)
        | .late c a r => (false, (s.applyReport r).fault c (some a) k true)
        | .freeze w => (false, s.performDue.freeze [w] k)

/-- The slots of one sub-bundle at a pressure level (R69). -/
def slotsPerCycle (level : Nat) : Nat := 8 / 2 ^ level

/-- A control cycle of a bundle's commits; its end follows the last (R65, R69). -/
def State.commitCycle (s : State) (l : List Instr) : State :=
  match commitSlots (slotsPerCycle (s.me.bs.level.getD 0)) l s with
  | (false, s) => s
  | (true, s) =>
    let last := decide (8 ≤ s.me.bs.slot)
    let s := (s.onMe fun k => { k with
      time := k.time + k.cl
      ccyc := k.ccyc + 1
      splc := if last then k.splc else k.splc + 1
      run := k.run.map fun r => { r with split := if last then r.split else r.split + k.pctx.divCtl } }).runEngines
        s.cur true true
    if last then s.startEnd else s

/-- The lowest of numbered findings. -/
def lowest {α : Type} : List (Nat × α) → Option (Nat × α)
  | [] => none
  | e :: r => match lowest r with
    | none => some e
    | some f => if e.1 ≤ f.1 then some e else some f

/-- A decoded bundle: it freezes on its hazards, faults before its commits, or commits (R65, R66). -/
def State.tryBundle (s : State) (l : List Instr) : State :=
  let vals := (upto 8).map fun n => match l[n]? with | some i => s.readSlot n i | none => .val 0
  let armed := s.armBundle vals
  let f := trySlots armed armed l vals 0 ⟨[], []⟩
  match lowest f.waits with
  | some (n, _) => s.freeze (f.waits.map (·.2)) n
  | none =>
    match lowest f.faults with
    | some (n, c, a, r) =>
      let t : State := match r with
        | some r => s.applyReport r
        | none => match l[n]? with | some i => s.reportRead i | none => s
      (t.onMe fun k => { k with bs := { k.bs with ops := opsOf k.bs.resume vals } }).fault c a n false
    | none => armed.commitCycle l

/-- The level a bundle samples when it first enters decode; 0 in a transfer phase (R70, R281). -/
def State.sampleLevel (s : State) : State :=
  let c := s.cluster (clusterOf s.cur)
  s.onMe fun k => { k with bs := { k.bs with
    level := some (k.bs.level.getD (if c.hedge.active then 0 else c.press)) } }

/-- The index at which control arrives: the whole BIX of a picked-up record (R10), else that of the target. -/
def Core.resumeIndex (k : Core) : Nat := match k.bs.picked with | some b => b.toNat | none => k.pc.bix.toNat

/-- The fault address of an index that the segment does not have: the target in the `abs` form (R110), and for a record
that has been picked up the address of the record (R10): a record of a task queue has none but that of its copy in the
save area (R251), and a context without one has a free value (log 16). -/
def State.resumeAddr (s : State) : Option W64 :=
  let k := s.me
  if k.bs.picked.isNone then some k.pc.abs
  else if (s.ctx k.ctx).saveb = 0 then none
  else some (BitVec.ofNat 64 (s.recordCopy k.ctx s.cur))

/-- A bundle in decode (R65 phase 1, R73, R86, R110). -/
def State.decodeCycle (s : State) (b : BitVec 256) : State :=
  let (found, s) := s.findSegment
  if !found then s.freeze [.reg] 0
  else
    let k := s.me
    match k.segment.bind (·.bad) with
    | some c => s.dropHalf.fault c (some (BitVec.ofNat 64 k.pc.seg.toNat)) 0 false
    | none =>
      if k.bcnt ≤ k.resumeIndex then s.fault .illopd s.resumeAddr 0 false
      else
        let s := s.onMe fun k => { k with bs := { k.bs with hdr := reenteredHeader (bundleHeader b) k.bs.reenter } }
        match decodeBundle b k.ui.active with
        | .error (n, r) => s.fault (if r.operand then .illopd else .illenc) none n false
        | .ok l => s.sampleLevel.tryBundle l

/-- A bundle part of whose slots have committed goes on (R69). -/
def State.resumeCommits (s : State) (b : BitVec 256) : State :=
  match decodeBundle b s.me.ui.active with
  | .ok l => s.commitCycle l
  | .error (n, r) => s.fault (if r.operand then .illopd else .illenc) none n false

/-- The cores of a cluster other than the phase strand's stop at their next bundle boundary: before a bundle that has
not entered decode (R281). -/
def State.pausedByPhase (s : State) : Bool :=
  let h := (s.cluster (clusterOf s.cur)).hedge
  h.active && h.strand != some s.cur && !s.me.bs.committed && s.me.bs.frozenSince.isNone

/-- A control cycle paused by a phase: frozen, measured by no watchdog (R281). -/
def State.pausedCycle (s : State) : State :=
  s.onMe fun k => { k with
    time := k.time + k.cl
    ccyc := k.ccyc + 1
    frz := k.frz + 1
    run := k.run.map fun r => { r with frozen := r.frozen + k.pctx.divCtl } }

/-- A control cycle of the executing core on a bundle. -/
def State.bundleCycle (s : State) (b : BitVec 256) : State :=
  let s := s.landCore s.cur
  match s.me.phase with
  | .run =>
    if s.pausedByPhase then s.pausedCycle
    else if s.me.bs.committed then s.resumeCommits b
    else s.decodeCycle b
  | .ending => s.endCycle
  | .leaving l => s.leaveCycle l
  | .idle => s
  | .faulting _ => s
  | .switching => s

/-! ### Steps -/

/-- A control cycle of the executing core: decode, freeze, read, commit, or the bundle's end (R65). -/
def execBundleExecute (b : BitVec 256) (s : State) : Host.Outcome State Fault Refusal := .next (s.bundleCycle b)

/-- A half whose expansion is complete: full, or given up when a prefetch cannot be fetched (R73, R75). -/
def State.endExpand (s : State) (c : CoreId) (h : Fin 2) : State :=
  let k := s.core c
  match k.halves[h.val] with
  | .expanding a t =>
    if s.now < t then s
    else
      let (s, g) := s.expand c k.halfCtx[h.val] a
      let wanted := k.run.isSome && k.pc.seg == a && k.halfCtx[h.val] == k.ctx
      let lost := g.bad == some .lease || g.bad == some .eccunc
      s.onCore c fun k => { k with halves := k.halves.set h.val (if lost && !wanted then .empty else .full g) }
  | _ => s

/-- A segment's stored bytes have arrived and are expanded (R75, R76). -/
def execSegmentExpanded (c : CoreId) (s : State) : Host.Outcome State Fault Refusal :=
  .next ((s.endExpand c 0).endExpand c 1)

end Sys2Proof.Machine
end

