-- ==== Sys2Proof/Machine/Power.lean ====
section
/-! DEFINITION. Retention, errors of slices, the timer's discipline, current pressure, ageing, thermal trips,
the emergency save and power-up (R286 to R288, R373 to R376, R386 to R389). -/

namespace Sys2Proof.Machine

/-! ### What waits for timer values (R300, R373, R377) -/

/-- The timer value at which ten intervals have passed since the last exchange that succeeded (R374). -/
def State.holdoverAt (s : State) : Int := s.die.timer.okAt + 10 * s.die.timer.ptmiv * 1000000

/-- Holdover is scheduled for that value (R374). -/
def State.planHoldover (s : State) : State :=
  let s := { s with events := s.events.filter fun e => e.2 != .ptmHoldover }
  if s.die.timer.hold then s else s.schedule (s.whenGt s.holdoverAt) .ptmHoldover

/-- The timer or the tick length has changed: what waits for a value of it is looked at again. -/
def State.retime (s : State) : State :=
  let s := (State.planHarvest { s with events := s.events.filter fun e => e.2 != .harvest }).planHoldover
  let s := s.releaseAll
  s.launches.foldl (fun s l =>
    match l.step with
    | .start => s.schedule s.now (.launchStartDue l.id)
    | .frame => s.schedule s.now (.launchStartDue l.id)
    | .empty => s.schedule s.now (.emptyLaunchComplete l.id)
    | _ => s) s

/-- A launch is live: accepted and not completed (R300, R373). -/
def State.anyLive (s : State) : Bool := s.launches.any fun l => l.step != .closing

/-- The timer runs on from its present value at a new rate (R374). -/
def State.setTrim (s : State) (trim : Int) : State :=
  { s with die := { s.die with timer := { s.die.timer with base := s.gt, since := s.now, trim := trim } } }.retime

/-- An exchange, no sooner than its interval after the one before: one that succeeds trims the rate towards the host's
time, by an open amount of at most 500 ppm (R374, log 27). -/
def State.ptm (s : State) (offset : Int) (ok : Bool) : State :=
  let t := s.die.timer
  if s.gt < t.next then s.schedule (s.whenGt t.next) (.ptmExchange offset ok)
  else
    let s := { s with die := { s.die with timer := { t with next := s.gt + t.ptmiv * 1000000 } } }
    if ok then
      let (n, s) := s.takeFree
      let m : Int := n % 50001
      let s := { s with die := { s.die with timer := { s.die.timer with okAt := s.gt, lock := true, hold := false } } }
      s.setTrim (if offset = 0 then 0 else if offset < 0 then -m else m)
    else s

/-! ### Retention (R286, R287) -/

/-- A core's engines, or a write-back of its lines, await a reply, or its expander does (R76, R164). -/
def State.coreAsks (s : State) (c : CoreId) : Bool :=
  let k := s.core c
  decide (k.engineSlots s.now ≠ 0) || k.halves.toList.any fun h => match h with | .expanding .. => true | _ => false

/-- The cluster holds nothing that keeps it awake (R286). A request that an engine or an expander has made is taken as
one at every cluster's slices: the rule gives what must hold, and leaves the manager free to wait longer (log 50). -/
def State.mayRetain (s : State) (k : ClusterId) : Bool :=
  let c := s.cluster k
  ((clusterCores k).all fun d => (s.core d).phase == .idle && (s.core d).gangHold.isNone)
    && c.pipes.toList.all (·.isNone) && !c.hedge.active && c.hedge.strand.isNone
    && !(s.reqs.any fun r => homeCluster r.pa == k) && !((upto 512).any fun c => s.coreAsks (BitVec.ofNat 9 c))
    && !(c.queue.any fun q => q.released.isSome)

/-- Lines resident at the slices of a cluster. -/
def State.linesOf (s : State) (k : ClusterId) : List (Nat × SLine) :=
  s.slines.filterMap fun e => match e.2 with
    | some l => if homeCluster (128 * e.1) = k then some (e.1, l) else none
    | none => none

/-- A dirty line of a slice is written to memory; its marker stays with it (R286, R322, R387). -/
def State.cleanLine (s : State) (line : Nat) : State :=
  match s.sline line with
  | some l =>
    let s := if l.dirty then s.sendLine line l.lastCtx else s
    s.setSline line (some { l with dirty := false })
  | none => s

/-- A core of a cluster that enters retention: its clock stops, and what its L1 and its loop buffer hold goes
(R286, R372). -/
def State.retainCore (s : State) (c : CoreId) : State :=
  let (s, g) := s.writeBackAll c false
  (s.addLate c g).onCore c fun k =>
    let k := { k.passTo s.now with l1 := [], halves := Vector.replicate 2 .empty }
    if k.inSlice then k.onPctx fun p => { p with rtk := p.rtk + refTicks k.resFrom s.now }
    else { k with idle := k.idle + refTicks k.idleFrom s.now }

/-- Entry: the dirty lines are written to memory; counters, locks and task records also to the spill area (R286). -/
def State.retain (s : State) (k : ClusterId) : State :=
  let s := (clusterCores k).foldl State.retainCore s
  let s := (s.linesOf k).foldl (fun s e => s.cleanLine e.1) s
  let held := (s.linesOf k).filterMap fun e => if e.2.holders.isEmpty then none else some (e.1, e.2.holders)
  let ctrs := s.setCtr.filter fun e => e.1 / 2048 == k.toNat
  s.onCluster k fun c => { c with retained := true, spill := some ⟨ctrs, held, c.queue⟩ }

/-- The clocks of a cluster's cores run again (R372). -/
def State.wakeCores (s : State) (k : ClusterId) : State :=
  (clusterCores k).foldl (fun s c => s.onCore c fun d => { d with
    time := Nat.max d.time s.now
    idleFrom := if d.inSlice then d.idleFrom else s.now
    resFrom := if d.inSlice then s.now else d.resFrom }) s

/-- The 256 set counters of a slice are given values plus 2^15 (R287, R288). -/
def State.advanceCounters (s : State) (ctrs : Tbl (BitVec 16)) (slices : List Nat) : State :=
  slices.foldl (fun s sl => (upto 256).foldl (fun s i =>
    let key := sl * 256 + i
    { s with setCtr := Tbl.put 0 s.setCtr key (Tbl.get 0 ctrs key + 2 ^ 15) }) s) s

/-- Slices emptied; a locked line keeps its way, to be filled afresh; a line that goes with its marker has its pull
served, as one that is evicted has (R287, R322, log 50). -/
def State.emptySlices (s : State) (lines : List (Nat × SLine)) (locks : List (Nat × List CtxId)) : State :=
  let s := lines.foldl (fun s e => match e.2.marker with | some m => s.pull m.core m.epoch | none => s) s
  lines.foldl (fun s e => s.setSline e.1 (match locks.find? fun l => l.1 == e.1 with
    | some l => some { e.2 with
        version := Tbl.get 0 s.setCtr (setKey e.1), dirty := false, marker := none, holders := l.2, vacant := true }
    | none => none)) s

/-- A strand saved on a core restarts from its pick-up record (R251, R287). -/
def State.restartSaved (s : State) (c : CoreId) (x : CtxId) : State × Bool :=
  match ((s.core c).pctxOf x).saved with
  | none => (s, false)
  | some p =>
    let a := s.saveArea x c
    let rcd := (Record.ofNat (s.mem.read (a + 5760) 64)).setFlg 5
    let s := s.writeDie (a + 5632 + 64) 8 0
    let s := s.onCore c fun k => k.onPctxOf x fun q => { q with saved := none }
    let o := match p.run.launch.bind s.launch with | some l => l.origin | none => 0
    let q : QRec := ⟨p.run.uid, rcd, p.run.launch, some s.gt, s.absDeadline o rcd.dln,
      neBud (s.nodeEntry rcd.ctx rcd.tmpl rcd.node), p.run.frozen, p.run.split, p.run.vc, none⟩
    (s.onCluster (clusterOf c) fun k => { k with queue := k.queue ++ [q] }, true)

/-- The cluster resets after a loss: counters, locks and records come from the spill area, and the contexts are told
of it (R287). A record that has come to the queue since entry comes with the cluster's waking and is not lost; one
whose release has waked the cluster stays released (log 50). -/
def State.retentionLost (s : State) (k : ClusterId) : State :=
  let (ctrs, locks, queue) : Tbl (BitVec 16) × List (Nat × List CtxId) × List QRec :=
    match (s.cluster k).spill with
    | some p => (p.counters, p.locks, p.queue)
    | none => ([], [], [])
  let s := (s.advanceCounters ctrs ((upto 8).map (8 * k.toNat + ·))).emptySlices (s.linesOf k) locks
  let told := (upto 16).filter fun x => queue.any fun q => q.rcd.ctx.toNat == x
  let restore (q : QRec) : QRec :=
    if queue.any (fun p => p.uid == q.uid) then { q with rcd := q.rcd.setFlg 5 } else q
  let s := s.onCluster k fun c => { c with queue := c.queue.map restore }
  let s := (clusterCores k).foldl (fun s c => s.onCore c fun d => { d with
    spad := []
    spadBad := []
    q3 := []
    cp := { d.cp with cache := [] } }) s
  let (s, told) := (clusterCores k).foldl (fun (p : State × List Nat) c => (upto 16).foldl (fun (p : State × List Nat) x =>
    let (s, b) := p.1.restartSaved c (BitVec.ofNat 4 x)
    (s, if b && !p.2.contains x then p.2 ++ [x] else p.2)) p) (s, told)
  told.foldl (fun s x => s.postEvent (BitVec.ofNat 4 x) 0x83 (0x0100 + k.toNat) k.toNat) s

/-! ### Pressure, ageing (R375, R376, R254) -/

/-- 50 us in quanta. -/
def calmTime : Nat := 1350000

/-- A cluster's level raised, or noted for the end of a transfer phase (R375). -/
def State.raisePress (s : State) (k : ClusterId) (l : Nat) : State :=
  let s := s.onCluster k fun c => { c with
    press := if c.hedge.active then c.press else Nat.max c.press l
    pressAsked := Nat.max c.pressAsked l
    calmSince := s.now }
  s.schedule (s.now + calmTime) (.pressureLower k)

/-- One step down after 50 us of calm (R375). -/
def State.lowerPress (s : State) (k : ClusterId) : State :=
  let c := s.cluster k
  if s.now < c.calmSince + calmTime ∨ (c.press = 0 ∧ c.pressAsked = 0) then s
  else
    let s := s.onCluster k fun c => { c with
      press := c.press - 1
      pressAsked := c.pressAsked - 1
      calmSince := s.now }
    s.schedule (s.now + calmTime) (.pressureLower k)

/-- Divisors not below a floor (R254). -/
def PerCtx.atLeast (p : PerCtx) (v : Nat) : PerCtx :=
  { p with divCtl := Nat.max v p.divCtl, divVec := Nat.max v p.divVec, divMat := Nat.max v p.divMat,
           divCpy := Nat.max v p.divCpy }

/-- DIVFL of a cluster re-planned, never lowered; cores that run raise their divisors at a bundle's end
(R254, R376). -/
def State.planFloor (s : State) (k : ClusterId) (v : Nat) : State :=
  let f := Nat.max (s.cluster k).divfl v
  let s := s.onCluster k fun c => { c with divfl := f }
  (clusterCores k).foldl (fun s c => s.onCore c fun d => if d.phase = .idle then d.onPctx (·.atLeast f) else d) s

/-! ### Trips, save, cut, power-up (R386 to R389) -/

def State.setTrip (s : State) (i : Fin 3) (b : Bool) : State :=
  { s with die := { s.die with trips := s.die.trips.set i.val b } }

/-- T1: contexts with a live launch are warned once a rise, with the cluster and the temperature, and the pressure of
the hottest clusters goes up (R386). -/
def State.tripT1 (s : State) (k : ClusterId) (temp : Nat) : State :=
  if s.die.trips[0] || decide (temp < tripAt 0) then s
  else
    let s := s.setTrip 0 true
    let s := (upto 16).foldl (fun s x =>
      let x : CtxId := BitVec.ofNat 4 x
      if s.launches.any fun l => l.ctx == x && l.step != .closing
      then s.postEvent x 0x87 (0x0500 + k.toNat) (k.toNat + 256 * temp) else s) s
    s.die.hot.foldl (fun s k => s.raisePress k (Nat.min 3 ((s.cluster k).pressAsked + 1))) s

/-- A trip is cleared once the junction is 5 degrees below its threshold (R386). -/
def State.clearTrips (s : State) (temp : Nat) : State :=
  (List.finRange 3).foldl (fun s i => if temp + 5 ≤ tripAt i then s.setTrip i false else s) s

/-- Step 1 of the emergency save: the extra harvest and the final readings (R387). -/
def State.saveReadings (s : State) : State :=
  let s := s.harvestAll
  let s := (upto 16).foldl (fun s x =>
    if (match s.die.totals[x]? with | some t => t.hseq != 0 | none => false) then s.makeReading x 1 else s) s
  s.makeReading 16 1

/-- A core holds the strand of a context that is being saved still at a boundary, with its results in (R249, R387). -/
def State.haltedFor (s : State) (c : CoreId) (x : CtxId) : Bool :=
  let k := s.core c
  !(k.inSlice && k.ctx == x) || k.phase == .idle || (k.atBoundary && s.strandQuiet c)

/-- Step 2 for one context: its state is written, then its dirty lines of the slices (R387). -/
def State.saveContext (s : State) (x : CtxId) : State :=
  let s := (upto 512).foldl (fun s c =>
    let c : CoreId := BitVec.ofNat 9 c
    if (s.core c).inSlice && (s.core c).ctx == x then
      let (s, g) := s.writeBackAll c false
      (s.addLate c g).saveCtx c
    else s) s
  let mine := s.slines.filterMap fun e => match e.2 with
    | some l => if l.lastCtx = some x then some e.1 else none
    | none => none
  (mine.foldl State.cleanLine s).onCtx x fun c => { c with st := 1 }

/-- The emergency save, the junction at T2 or above: step 1, then the contexts in order, each once its strands stand
between bundles (R387). -/
def State.emergency (s : State) : State :=
  match s.die.saving with
  | none =>
    if s.die.trips[1] || decide (s.die.junction < tripAt 1) then s
    else
      let s := s.setTrip 1 true
      let s := { s with die := { s.die with stopped := true } }.saveReadings
      { s with die := { s.die with saving := some 1 } }.schedule s.now .emergencySave
  | some n =>
    let x : CtxId := BitVec.ofNat 4 n
    if !((upto 512).all fun c => s.haltedFor (BitVec.ofNat 9 c) x) then s.schedule (s.now + 5) .emergencySave
    else
      let s := s.saveContext x
      if n = 16 then { s with die := { s.die with saving := none } }
      else { s with die := { s.die with saving := some (n + 1) } }.schedule s.now .emergencySave

/-- The part with everything lost but memory, identifiers and the always-on domain (R373, R381, R388, R391, R405). -/
def State.coldStart (s : State) : State :=
  let d : Die := { Die.reset with
    rdSeq := s.die.rdSeq
    readings := s.die.readings
    totals := s.die.totals
    trips := s.die.trips
    frSeq := s.die.frSeq
    junction := s.die.junction
    hot := s.die.hot
    lastHarvest := s.gt
    timer := { s.die.timer with base := s.gt, since := s.now, lock := false, hold := false, next := s.gt, okAt := s.gt } }
  { State.reset with
    now := s.now
    ctxs := s.ctxs.map fun c => { Ctx.reset with rseq := c.rseq, st := c.st }
    mem := s.mem
    sward := s.sward
    swardB := s.swardB
    die := d
    events := s.events.filter fun e => match e.2 with | .powerUp .. => true | _ => false
    stimuli := s.stimuli
    delays := s.delays
    nextId := s.nextId
    free := s.free }

/-- The emergency save has written the context table's entry of x (R387). -/
def State.savedNow (s : State) (x : CtxId) : Bool :=
  s.saveReached x && s.die.saving != some (if x = 0 then 16 else x.toNat)

/-- T3: the rails are cut; contexts not saved with a live launch are LOST (R386, R387). -/
def State.cutRails (s : State) : State :=
  let s := if s.die.stopped then s else s.saveReadings
  let s := (upto 16).foldl (fun s x =>
    let x : CtxId := BitVec.ofNat 4 x
    if !s.savedNow x ∧ s.launches.any (fun l => l.ctx == x && l.step != .closing)
    then s.onCtx x fun c => { c with st := 2 } else s) s
  let s := (s.setTrip 2 true).coldStart
  { s with die := { s.die with powered := false } }

/-- Always-on memory found invalid: its contents take their reset values, and the counter of sequence numbers
advances (R391). -/
def State.aonInvalid (s : State) : State :=
  { s with
    ctxs := s.ctxs.map fun c => { c with rseq := 0, st := 0 }
    die := { s.die with
      rdSeq := BitVec.ofNat 64 ((s.die.rdSeq.toNat / 2 ^ 16 + 1) * 2 ^ 16)
      readings := []
      totals := Vector.replicate 17 ⟨0, 0, 0, false⟩ } }

/-- Firmware calibrates weights and DIVFL and releases the die (R376, R389). -/
def State.calibrate (s : State) : State :=
  { s with
    clusters := Vector.ofFn fun k => { (s.clusters[k]) with divfl := Nat.max 3 (Config.divFloor k.val).toNat }
    die := { s.die with
      cw := Vector.ofFn fun n => Config.classWeight n.val
      mwb := (Config.byteWeight false).toNat
      fwb := (Config.byteWeight true).toNat
      swGen := 1 } }

/-- Power-up: the digest of the firmware image, its signature, then the release of the die, or the hold
(R388, R389). -/
def State.bringUp (s : State) (f : Firmware) (aonValid : Bool) : State :=
  let digest := Config.sha3 f.image
  let s := s.coldStart
  let s := { s with die := { s.die with trips := Vector.replicate 3 false } }
  let s := if aonValid then s else s.aonInvalid
  if Config.vendorRefuses digest f.signature then
    { s with die := { s.die with held := true, stopped := true, scstat := 0xE1 } }
  else
    let s := { s with die := { s.die with fwDigest := digest } }.calibrate.planHarvest.planHoldover
    (upto 16).foldl (fun s x =>
      let x : CtxId := BitVec.ofNat 4 x
      if (s.ctx x).st = 2 then s.postEvent x 0x85 0x0400 (x.toNat + 2 ^ 64 * (s.ctx x).rseq.toNat) else s) s

/-! ### Steps -/

/-- The power manager puts an idle cluster into retention (R286). -/
def execRetentionEntry (k : ClusterId) (s : State) : Host.Outcome State Fault Refusal :=
  .next (if s.mayRetain k && !(s.cluster k).retained then s.retain k else s)

/-- A cluster wakes, with or without its state (R286, R287). -/
def execRetentionWake (k : ClusterId) (lost : Bool) (s : State) : Host.Outcome State Fault Refusal :=
  if !(s.cluster k).retained then .next s
  else
    let s := if lost then s.retentionLost k else s
    .next (((s.wakeCores k).onCluster k fun c => { c with retained := false, spill := none }).poke k)

/-- An uncorrectable error in a tag, a set counter or a lock resets its slice; contexts that held a lock there are
told, and hold it no more (R288). -/
def execSliceTagError (sl : BitVec 9) (s : State) : Host.Outcome State Fault Refusal :=
  let lines := (s.linesOf (BitVec.ofNat 6 (sl.toNat / 8))).filter fun e => sliceHash (128 * e.1) == sl
  let told := (upto 16).filter fun x => lines.any fun e => e.2.holders.contains (BitVec.ofNat 4 x)
  let s := lines.foldl (fun s e => s.evictSline e.1 e.2) s
  let s := lines.foldl (fun s e => e.2.holders.foldl (fun s x => s.onCtx x fun c => { c with held := c.held - 1 }) s) s
  let s := s.advanceCounters s.setCtr [sl.toNat]
  .next (told.foldl (fun s x =>
    s.postEvent (BitVec.ofNat 4 x) 0x83 (0x0100 + sl.toNat / 8) (sl.toNat / 8)) s)

/-- A PTM exchange at its interval (R374). -/
def execPtmExchange (offset : Int) (ok : Bool) (s : State) : Host.Outcome State Fault Refusal := .next (s.ptm offset ok)

/-- Ten intervals without an exchange that succeeded: the last trim is held (R374). -/
def execPtmHoldover (s : State) : Host.Outcome State Fault Refusal :=
  .next (if s.gt < s.holdoverAt then s.planHoldover
    else { s with die := { s.die with timer := { s.die.timer with hold := true, lock := false } } })

/-- The power manager raises a cluster's pressure (R375). -/
def execPressureRaise (k : ClusterId) (l : BitVec 2) (s : State) : Host.Outcome State Fault Refusal :=
  .next (s.raisePress k l.toNat)

/-- A cluster's pressure falls one step (R375). -/
def execPressureLower (k : ClusterId) (s : State) : Host.Outcome State Fault Refusal := .next (s.lowerPress k)

/-- Firmware re-plans a cluster's DIVFL (R376). -/
def execAgeingCheck (k : ClusterId) (v : BitVec 4) (s : State) : Host.Outcome State Fault Refusal :=
  .next (s.planFloor k v.toNat)

/-- The junction reaches T1 (R386). -/
def execThermwarn (k : ClusterId) (temp : BitVec 8) (s : State) : Host.Outcome State Fault Refusal :=
  .next (s.tripT1 k temp.toNat)

/-- The junction reaches T2 (R387). -/
def execEmergencySave (s : State) : Host.Outcome State Fault Refusal := .next s.emergency

/-- The junction reaches T3 (R386, R387). -/
def execRailCut (s : State) : Host.Outcome State Fault Refusal :=
  .next (if s.die.junction < tripAt 2 then s else s.cutRails)

/-- The junction has fallen to a temperature (R386). -/
def execThermalTripClear (temp : BitVec 8) (s : State) : Host.Outcome State Fault Refusal :=
  .next (s.clearTrips temp.toNat)

/-- The controller verifies and runs firmware and releases the die, or holds it (R389). -/
def execPowerUp (firmware : Firmware) (aonValid : Bool) (s : State) : Host.Outcome State Fault Refusal :=
  .next (s.bringUp firmware aonValid)

end Sys2Proof.Machine
end

