-- ==== Sys2Proof/Machine/HostRegs.lean ====
section
/-! DEFINITION. What the host does: registers at BAR 0, security requests, replays, writes and snoops (R289,
R329, R331, R356, R363, R367, R373, R381, R388, R393 to R396, R399, R401, R405, R406). -/

namespace Sys2Proof.Machine

/-! ### Registers with a step of their own -/

/-- The steps a host write starts; none for a register without a step of its own. -/
def hostSteps (s : State) (off v : Nat) : List Instr :=
  let low := BitVec.ofNat 64 v
  if off = 0x101008 then
    (upto 64).filterMap fun t =>
      if v.testBit t = s.die.bken.getLsbD t then none
      else some (if v.testBit t then .bkenEnable (BitVec.ofNat 6 t) else .bkenDisable (BitVec.ofNat 6 t))
  else if off = 0x101010 then
    (if v = 1 then [.snapshotExport] else if v = 2 then [.snapshotImport] else if v = 3 then [.snapshotUnpin] else [])
  else if 0x102800 ≤ off ∧ off < 0x102A00 then [.rrel (BitVec.ofNat 6 ((off - 0x102800) / 8)) low]
  else if off = 0x104008 then [.gtset low]
  else if 0x105000 ≤ off ∧ off < 0x105220 ∧ off % 0x20 = 0x18 then
    (if v.testBit 1 then [.totalClr ⟨(off - 0x105000) / 0x20 % 17, Nat.mod_lt _ (by decide)⟩] else [])
  else if off = 0x106000 then
    (if v = 1 then [.attest] else if v = 2 then [.energyReading] else if v = 3 then [.fetchReading] else [])
  else if off = 0x107620 then [.replay low]
  else []

/-! ### Per-context registers -/

/-- A command-stream register of a context: base and size registers only while ENA is 0, no value outside a
register's range (R289). -/
def streamReg (c : Ctx) (r : Nat) (v : W64) : Ctx :=
  let n := v.toNat
  let base := !c.ena && decide (n % 4096 = 0)
  let size := !c.ena && decide (4 ≤ n ∧ n ≤ 16)
  match r with
  | 0x00 => if base then { c with csb := v } else c
  | 0x08 => if size then { c with csn := v } else c
  | 0x20 => if base then { c with cqb := v } else c
  | 0x28 => if size then { c with cqn := v } else c
  | 0x30 => { c with cqh := BitVec.ofNat 32 n }
  | 0x40 => if base then { c with evb := v } else c
  | 0x48 => if size then { c with evn := v } else c
  | 0x50 => { c with evh := BitVec.ofNat 32 n }
  | 0x60 => { c with evlost := 0 }
  | 0x68 => { c with ena := n.testBit 0 }
  | _ => c

/-- What follows a write of a command-stream register (R243, R290). -/
def State.afterStreamReg (s : State) (x : CtxId) (r : Nat) : State :=
  if r = 0x30 then (s.flushHeld x ((s.ctx x).heldC.length)).nextPacket x
  else if r = 0x68 ∧ (s.ctx x).ena then
    let s := if (s.ctx x).dead then
        (upto 512).foldl (fun s c =>
          let c : CoreId := BitVec.ofNat 9 c
          if (s.core c).run.isSome && (s.core c).ctx == x then s.discardStrand c (some .dblfault) else s) s
      else s
    (s.onCtx x fun c => { c with dead := false }).nextPacket x
  else s

/-- The context has an open stream (R363). -/
def State.hasStream (s : State) (x : CtxId) : Bool :=
  s.streams.any fun e => match e.2 with | some t => t.ctx == x | none => false

/-- A page-pool register (R363). -/
def poolReg (c : Ctx) (isOpen : Bool) (r : Nat) (v : W64) : Ctx :=
  match r with
  | 0x00 => if isOpen || v.toNat % 4096 != 0 then c else { c with kpb := v }
  | 0x08 => if isOpen || decide (2 ^ 20 < v.toNat) then c else { c with kpcap := v }
  | 0x10 => if isOpen then c else { c with kpfree := v }
  | 0x18 => { c with kplost := 0 }
  | _ => c

/-- A decode-ring register, at offsets 0, 8 and 16 of its block (R367, log 28). -/
def jobReg (c : Ctx) (r : Nat) (v : W64) : Ctx :=
  match r with
  | 0x00 => if v.toNat % 4096 = 0 then { c with djb := v } else c
  | 0x08 => if 4 ≤ v.toNat ∧ v.toNat ≤ 12 then { c with djn := v } else c
  | 0x10 => { c with djt := BitVec.ofNat 32 v.toNat }
  | _ => c

/-! ### Registers of the die -/

/-- The tick length changes from the next tick boundary on, while launches are live (R300). -/
def State.setTtlen (s : State) (n : Nat) : State :=
  let d := s.die
  if s.anyLive then { s with die := { d with ttlen := n, ttHist := d.ttHist ++ [(s.gt, d.ttlen)] } }.retime
  else { s with die := { d with ttlen := n, ttHist := [] } }

/-- A ring of fault records has room again: launches that wait for it go on (R405). -/
def State.faultRoom (s : State) : State :=
  (s.launches.filter fun l => l.frNext.isSome).foldl (fun s l => s.tryLease l.id) s

/-- A register of the die without a step of its own; a value outside its range is ignored. -/
def State.dieReg (s : State) (off : Nat) (v : W64) : State :=
  let n := v.toNat
  let set (f : Die → Die) : State := { s with die := f s.die }
  let page (f : Die → Die) : State := if n % 4096 = 0 then set f else s
  match off with
  | 0x100800 => if 100 ≤ n ∧ n ≤ 1000000 then s.setTtlen n else s
  | 0x100808 => if 1 ≤ n ∧ n < 2 ^ 31 then set fun d => { d with starv := n } else s
  | 0x101000 => if n % 2 ^ 13 = 0 then set fun d => { d with bktb := v } else s
  | 0x101010 => if 1 ≤ n ∧ n ≤ 3 then set fun d => { d with bkxstat := 0 } else s
  | 0x101018 => set fun d => { d with bkxarg := v }
  | 0x101020 => page fun d => { d with bkxbuf := v }
  | 0x101028 => set fun d => { d with bkxlen := v }
  | 0x104018 => if 1 ≤ n ∧ n ≤ 1000
      then (set fun d => { d with timer := { d.timer with ptmiv := n } }).planHoldover else s
  | 0x107000 => if s.ctxs.toList.any (·.ena) then s else set fun d => { d with devid := BitVec.ofNat 20 n }
  | 0x107008 => set fun d => { d with hswd := v }
  | 0x107600 => page fun d => { d with frb := v }
  | 0x107608 => if 4 ≤ n ∧ n ≤ 16 then set fun d => { d with frn := v } else s
  | 0x107618 => (set fun d => { d with frh := BitVec.ofNat 32 n }).faultRoom
  | _ =>
    if 0x107100 ≤ off ∧ off < 0x107500 ∧ off % 8 = 0 then
      if off % 16 = 8 ∧ n % 4096 ≠ 0 then s
      else set fun d => { d with peers := Tbl.put 0 d.peers ((off - 0x107100) / 8) n }
    else s

/-- A register of the always-on domain or the security controller (R388, R393). -/
def State.controllerReg (s : State) (off : Nat) (v : W64) : State :=
  let n := v.toNat
  if off = 0x106000 then
    { s with die := { s.die with scstat := if n = 1 ∨ n = 2 ∨ n = 3 then 0 else 0xE2 } }
  else if off = 0x106008 then { s with die := { s.die with scarg := v } }
  else if off = 0x106010 then (if n % 4096 = 0 then { s with die := { s.die with scbuf := v } } else s)
  else if 0x106020 ≤ off ∧ off < 0x1060A0 ∧ off % 8 = 0 then
    s.onCtx (BitVec.ofNat 4 ((off - 0x106020) / 8)) fun c => { c with tenant := v }
  else if 0x106100 ≤ off ∧ off < 0x106200 ∧ off % 16 = 8 then
    (if n % 4 = 0 then s.onCtx (BitVec.ofNat 4 ((off - 0x106100) / 16)) (fun c => { c with st := 0, rseq := 0 }) else s)
  else s

/-- A host write to a register (R289): the steps of its own it starts, or the register's new value. A die that is
held or without power answers at the totals and the controller alone (R381, R389). -/
def State.hostReg (s : State) (off : Nat) (v : W64) : State :=
  let aon := decide (0x105000 ≤ off) && decide (off < 0x107000)
  let s := if aon || (s.die.powered && !s.die.held) then (hostSteps s off v.toNat).foldl (fun s i => s.schedule s.now i) s
    else s
  if 0x106000 ≤ off ∧ off < 0x107000 then s.controllerReg off v
  else if !s.die.powered || s.die.held then s
  else if 0x100000 ≤ off ∧ off < 0x100800 ∧ off % 8 = 0 then
    let x : CtxId := BitVec.ofNat 4 ((off - 0x100000) / 0x80)
    if off % 0x80 = 0x10 then s.doorbell x (BitVec.ofNat 32 v.toNat)
    else (s.onCtx x fun c => streamReg c (off % 0x80) v).afterStreamReg x (off % 0x80)
  else if 0x102000 ≤ off ∧ off < 0x102200 then
    let x : CtxId := BitVec.ofNat 4 ((off - 0x102000) / 0x20)
    s.onCtx x fun c => poolReg c (s.hasStream x) (off % 0x20) v
  else if 0x103000 ≤ off ∧ off < 0x103200 then
    let x : CtxId := BitVec.ofNat 4 ((off - 0x103000) / 0x20)
    (s.onCtx x fun c => jobReg c (off % 0x20) v).planDecode
  else s.dieReg off v

/-! ### The security controller (R390 to R393) -/

/-- A response of a body and its signature at SCBUF; then the status (R390, R393). -/
def State.respond (s : State) (body : List Byte) : State :=
  let sig := (upto 2420).map (Config.signatureByte body)
  let s := s.writeDie s.die.scbuf.toNat 2484 (ofBytes (body ++ sig))
  { s with die := { s.die with scstat := 1 } }

def State.scStatus (s : State) (n : W64) : State := { s with die := { s.die with scstat := n } }

/-- A request is served unless firmware was refused (R389). -/
def State.serveSc (s : State) (f : State → State) : State := if s.die.held then s.scStatus 0xE1 else f s

/-! ### Writes and snoops (R329, R396) -/

/-- A byte that the host may not change: in the tag region, in bytes 0 to 63 of an enabled tree's descriptor, or in bytes
0 to 47 of an open stream's link block (R333, R352, R396). -/
def State.hostBarred (s : State) (a : Nat) : Bool :=
  inTagRegion a
    || (s.trees.any fun e => match e.2 with
        | some t => decide (t.desc ≤ a) && decide (a < t.desc + 64)
        | none => false)
    || s.streams.any fun e => match e.2 with
        | some t => t.link != 0 && decide (t.link ≤ a) && decide (a < t.link + 48)
        | none => false

/-- Bytes written by the host or a peer. -/
def State.hostBytes (s : State) : Nat → List Byte → State
  | _, [] => s
  | a, b :: r => State.hostBytes (if s.hostBarred a then s else { s with mem := s.mem.setByte a b }) (a + 1) r

/-- The slices' copies of host-memory lines that the host writes go, as evicted lines do, markers served (R322,
R329). -/
def State.dropCopies (s : State) (a n : Nat) : State :=
  if onLink a then (upto ((a + n + 127) / 128 - a / 128)).foldl (fun s i =>
    match s.sline (a / 128 + i) with
    | some l => s.evictSline (a / 128 + i) l
    | none => s) s
  else s

/-- A host or peer write at the home slices: its bytes cross a link (R268, R329, R380). -/
def State.hostWrite (s : State) (a : Nat) (data : List Byte) : State :=
  let n := data.length
  ((((s.dropCopies a n).hostBytes a data).written a n).countLink none (if onLink a then 0 else n))

/-! ### What the host reads (R289, R331, R363, R367, R373, R376, R381, R388, R393 to R395, R399, R401, R405) -/

/-- A command-stream register of a context as the host reads it (R289). -/
def Ctx.streamWord (c : Ctx) (r : Nat) : Option Nat :=
  match r with
  | 0x00 => some c.csb.toNat
  | 0x08 => some c.csn.toNat
  | 0x10 => some c.cst.toNat
  | 0x18 => some c.csh.toNat
  | 0x20 => some c.cqb.toNat
  | 0x28 => some c.cqn.toNat
  | 0x30 => some c.cqh.toNat
  | 0x38 => some c.cqt.toNat
  | 0x40 => some c.evb.toNat
  | 0x48 => some c.evn.toNat
  | 0x50 => some c.evh.toNat
  | 0x58 => some c.evt.toNat
  | 0x60 => some c.evlost.toNat
  | 0x68 => some (boolCode c.ena)
  | _ => none

/-- A page-pool register, and a decode-ring register with the head fourth (R363, R367, log 28). -/
def Ctx.poolWord (c : Ctx) (r : Nat) : Option Nat :=
  [c.kpb.toNat, c.kpcap.toNat, c.kpfree.toNat, c.kplost.toNat][r / 8]?
def Ctx.jobWord (c : Ctx) (r : Nat) : Option Nat :=
  [c.djb.toNat, c.djn.toNat, c.djt.toNat, c.djh.toNat][r / 8]?

/-- GTSTAT: LOCK, HOLD, LIVE and the trim (R373). -/
def State.timerStatus (s : State) : Nat :=
  boolCode s.die.timer.lock + 2 * boolCode s.die.timer.hold + 4 * boolCode s.anyLive
    + 2 ^ 16 * wrap s.die.timer.trim 16

/-- A word of a total's 32 bytes (R381). -/
def Total.word (t : Total) (i : Nat) : Nat :=
  match i with
  | 0 => t.tot.toNat % 2 ^ 64
  | 1 => t.tot.toNat / 2 ^ 64 + 2 ^ 32 * t.hseq.toNat
  | 2 => t.stamp.toNat
  | _ => boolCode t.sati

/-- A register of the die that stands alone, as the host reads it. -/
def State.dieWord (s : State) (off : Nat) : Option Nat :=
  let d := s.die
  match off with
  | 0x100800 => some d.ttlen
  | 0x100808 => some d.starv
  | 0x101000 => some d.bktb.toNat
  | 0x101008 => some d.bken.toNat
  | 0x101018 => some d.bkxarg.toNat
  | 0x101020 => some d.bkxbuf.toNat
  | 0x101028 => some d.bkxlen.toNat
  | 0x101030 => some d.bkxstat.toNat
  | 0x104000 => some (s.gt % 2 ^ 64)
  | 0x104010 => some s.timerStatus
  | 0x104018 => some d.timer.ptmiv
  | 0x106008 => some d.scarg.toNat
  | 0x106010 => some d.scbuf.toNat
  | 0x106018 => some d.scstat.toNat
  | 0x107000 => some d.devid.toNat
  | 0x107008 => some d.hswd.toNat
  | 0x107600 => some d.frb.toNat
  | 0x107608 => some d.frn.toNat
  | 0x107610 => some d.frt.toNat
  | 0x107618 => some d.frh.toNat
  | _ => none

/-- What a host read of a register at BAR 0 gives; none for an offset without a register that can be read. The floors
of the clusters are words of 4 bytes, the other registers of 8. -/
def State.hostRead (s : State) (off : Nat) : Option Nat :=
  let ctx (base size : Nat) : Ctx := s.ctx (BitVec.ofNat 4 ((off - base) / size))
  if 0x104100 ≤ off ∧ off < 0x104200 ∧ off % 4 = 0 then
    some (s.cluster (BitVec.ofNat 6 ((off - 0x104100) / 4))).divfl
  else if off % 8 ≠ 0 then none
  else if 0x100000 ≤ off ∧ off < 0x100800 then (ctx 0x100000 0x80).streamWord (off % 0x80)
  else if 0x102000 ≤ off ∧ off < 0x102200 then (ctx 0x102000 0x20).poolWord (off % 0x20)
  else if 0x103000 ≤ off ∧ off < 0x103200 then (ctx 0x103000 0x20).jobWord (off % 0x20)
  else if 0x105000 ≤ off ∧ off < 0x105220 then
    (s.die.totals[(off - 0x105000) / 0x20]?).map fun t => t.word (off % 0x20 / 8)
  else if 0x106020 ≤ off ∧ off < 0x1060A0 then some (ctx 0x106020 8).tenant.toNat
  else if 0x106100 ≤ off ∧ off < 0x106200 then
    let c := ctx 0x106100 16
    some (if off % 16 = 0 then c.rseq.toNat else c.st.toNat)
  else if 0x107100 ≤ off ∧ off < 0x107500 then some (Tbl.get 0 s.die.peers ((off - 0x107100) / 8))
  else s.dieWord off

/-- n bytes that a host or peer read of memory gives, at the home slices; the tag region reads as zero (R329, R396). What
the read costs, `State.hostReads` charges (R380). -/
def State.hostReadMem (s : State) (a n : Nat) : List Byte :=
  (upto n).map fun i => if inTagRegion (a + i) then 0 else BitVec.ofNat 8 (s.mem.read (a + i) 1)

/-! ### Steps -/

/-- A host write to a register, ignored while it is not permitted, behind the host's earlier writes (R289, R329). -/
def execHostRegisterWrite (off : BitVec 24) (v : W64) (s : State) : Host.Outcome State Fault Refusal :=
  .next (s.takeTurn (.hostRegisterWrite off v) fun s => s.hostReg off.toNat v)

/-- GTSET while no launch is live (R373). The timer's intervals are measured on (R374): the exchange that is due and the
last that succeeded move with the timer. -/
def execGtset (v : W64) (s : State) : Host.Outcome State Fault Refusal :=
  let t := s.die.timer
  let d : Int := (v.toNat : Int) - s.gt
  .next (if s.anyLive then s
    else { s with die := { s.die with
      timer := { t with base := v.toNat, since := s.now, okAt := t.okAt + d, next := t.next + d }
      lastHarvest := v.toNat } }.retime)

/-- The body of an attestation report: the device identifier in bytes 0 to 7, and in the 56 bytes after it the whole
nonce, at an open place, among 24 bytes of the firmware digest, which of them being open: R393 has the body hold a 32-byte
nonce and the digest, R390 gives the body 64 bytes, and 72 do not fit (log 12, DESIGN CHOICE). -/
def attestBody (nonce : List Byte) (digest : BitVec 256) (devid : BitVec 20) : List Byte :=
  let dg := (upto 24).map fun i => (toBytes 32 digest.toNat).getD (Config.attestPick i % 32) 0
  let place := Config.attestPlace % 25
  toBytes 8 devid.toNat ++ (dg.take place ++ (nonce ++ dg.drop place))

/-- SCREQ 1: an attestation report for the nonce at SCARG (R393). -/
def execAttest (s : State) : Host.Outcome State Fault Refusal :=
  .next (s.serveSc fun s =>
    s.respond (attestBody (toBytes 32 (s.mem.read s.die.scarg.toNat 32)) s.die.fwDigest s.die.devid))

/-- SCREQ 2: a signed reading of a context (R392, R393). -/
def execEnergyReading (s : State) : Host.Outcome State Fault Refusal :=
  .next (s.serveSc fun s =>
    let a := s.die.scarg.toNat % 32
    if 16 < a then s.scStatus 0xE2
    else if s.readingsSpent then s.scStatus 0xE3
    else
      let s := s.makeReading a 0
      match s.die.readings.getLast? with
      | some r => s.respond r.body
      | none => s)

/-- SCREQ 3: a past reading by its sequence number (R393). -/
def execFetchReading (s : State) : Host.Outcome State Fault Refusal :=
  .next (s.serveSc fun s =>
    match s.die.readings.find? fun r => r.seq == s.die.scarg with
    | some r => s.respond r.body
    | none => s.scStatus 0xE2)

/-- REPLAY: launches with a record up to the value try their leases again (R406). -/
def execReplay (v : W64) (s : State) : Host.Outcome State Fault Refusal :=
  .next ((s.launches.filter fun l => l.step == .lease && l.faultSeqs.any fun n => decide (n ≤ v.toNat)).foldl
    (fun s l => s.retryLease l.id) s)

/-- A host or peer write arrives behind the earlier posted ones (R329); clusters in retention wake first (R286). -/
def execHostWriteArrive (a : BitVec 52) (data : List Byte) (s : State) : Host.Outcome State Fault Refusal :=
  let i := Instr.hostWriteArrive a data
  let lines := (upto ((a.toNat + data.length + 127) / 128 - a.toNat / 128)).map fun i => 128 * (a.toNat / 128 + i)
  if s.die.posted.headD i ≠ i then .next (s.takeTurn i fun s => s.hostWrite a.toNat data)
  else match s.wakeHomes lines with
  | some t => .next ({ t with die := { t.die with
      posted := if t.die.posted.isEmpty then [i] else t.die.posted } }.schedule (s.now + 54000) i)
  | none => .next (s.takeTurn i fun s => s.hostWrite a.toNat data)

/-- A host snoop of a line of host memory: answered from the slice, which changes nothing; or the slice's copy goes, as
an evicted line does (R322, R329). -/
def execHostSnoop (a : BitVec 52) (inval : Bool) (s : State) : Host.Outcome State Fault Refusal :=
  let line := lineOf a.toNat
  .next (if a.toNat < 0x4000000000 || !inval then s
    else match s.sline line with
      | some l => s.evictSline line l
      | none => s)

end Sys2Proof.Machine
end

