-- ==== Sys2Proof/Machine/Dispatch.lean ====
section
/-! DEFINITION. Dispatch: one arm per constructor of Instr, in the order of the opcode table. -/

namespace Sys2Proof.Machine

def exec (i : Instr) (s : State) : Host.Outcome State Fault Refusal :=
  match i with
  | .bundleExecute b => Sys2Proof.Machine.execBundleExecute b s
  | .moveToRegister src dst => Sys2Proof.Machine.execMoveToRegister src dst s
  | .operandPortWrite src port => Sys2Proof.Machine.execOperandPortWrite src port s
  | .nullMove ssp sval k fsel => Sys2Proof.Machine.execNullMove ssp sval k fsel s
  | .push src w => Sys2Proof.Machine.execPush src w s
  | .add u f m => Sys2Proof.Machine.execAdd u f m s
  | .sub u f m => Sys2Proof.Machine.execSub u f m s
  | .mul u f m => Sys2Proof.Machine.execMul u f m s
  | .mulh u f m => Sys2Proof.Machine.execMulh u f m s
  | .div u f m => Sys2Proof.Machine.execDiv u f m s
  | .rem u f m => Sys2Proof.Machine.execRem u f m s
  | .and u f m => Sys2Proof.Machine.execAnd u f m s
  | .or u f m => Sys2Proof.Machine.execOr u f m s
  | .xor u f m => Sys2Proof.Machine.execXor u f m s
  | .andn u f m => Sys2Proof.Machine.execAndn u f m s
  | .shl u f m => Sys2Proof.Machine.execShl u f m s
  | .shr u f m => Sys2Proof.Machine.execShr u f m s
  | .sar u f m => Sys2Proof.Machine.execSar u f m s
  | .rol u f m => Sys2Proof.Machine.execRol u f m s
  | .min u f m => Sys2Proof.Machine.execMin u f m s
  | .max u f m => Sys2Proof.Machine.execMax u f m s
  | .cmp u f m => Sys2Proof.Machine.execCmp u f m s
  | .clz u f m => Sys2Proof.Machine.execClz u f m s
  | .ctz u f m => Sys2Proof.Machine.execCtz u f m s
  | .popc u f m => Sys2Proof.Machine.execPopc u f m s
  | .ext u f m => Sys2Proof.Machine.execExt u f m s
  | .bswap u f m => Sys2Proof.Machine.execBswap u f m s
  | .adds u f m => Sys2Proof.Machine.execAdds u f m s
  | .subs u f m => Sys2Proof.Machine.execSubs u f m s
  | .pass u f m => Sys2Proof.Machine.execPass u f m s
  | .intResultDelivery c u => Sys2Proof.Machine.execIntResultDelivery c u s
  | .jmp t m => Sys2Proof.Machine.execJmp t m s
  | .bz t m => Sys2Proof.Machine.execBz t m s
  | .bnz t m => Sys2Proof.Machine.execBnz t m s
  | .call t m => Sys2Proof.Machine.execCall t m s
  | .loop m => Sys2Proof.Machine.execLoop m s
  | .lpop m => Sys2Proof.Machine.execLpop m s
  | .lcnt m => Sys2Proof.Machine.execLcnt m s
  | .lset m => Sys2Proof.Machine.execLset m s
  | .ld z m => Sys2Proof.Machine.execLd z m s
  | .st z m => Sys2Proof.Machine.execSt z m s
  | .loadReply req => Sys2Proof.Machine.execLoadReply req s
  | .lda z sc m => Sys2Proof.Machine.execLda z sc m s
  | .strl z sc m => Sys2Proof.Machine.execStrl z sc m s
  | .fence k sc m => Sys2Proof.Machine.execFence k sc m s
  | .atom op m => Sys2Proof.Machine.execAtom op m s
  | .clrd m => Sys2Proof.Machine.execClrd m s
  | .cms m => Sys2Proof.Machine.execCms m s
  | .sliceOpPerform req => Sys2Proof.Machine.execSliceOpPerform req s
  | .lock m => Sys2Proof.Machine.execLock m s
  | .unlock m => Sys2Proof.Machine.execUnlock m s
  | .trn m => Sys2Proof.Machine.execTrn m s
  | .pf l2 m => Sys2Proof.Machine.execPf l2 m s
  | .wb m => Sys2Proof.Machine.execWb m s
  | .inv m => Sys2Proof.Machine.execInv m s
  | .hinfo f m => Sys2Proof.Machine.execHinfo f m s
  | .vadd t m => Sys2Proof.Machine.execVadd t m s
  | .vsub t m => Sys2Proof.Machine.execVsub t m s
  | .vmul t m => Sys2Proof.Machine.execVmul t m s
  | .vfma t m => Sys2Proof.Machine.execVfma t m s
  | .vfms t m => Sys2Proof.Machine.execVfms t m s
  | .vfnma t m => Sys2Proof.Machine.execVfnma t m s
  | .vmin t m => Sys2Proof.Machine.execVmin t m s
  | .vmax t m => Sys2Proof.Machine.execVmax t m s
  | .vabs t m => Sys2Proof.Machine.execVabs t m s
  | .vneg t m => Sys2Proof.Machine.execVneg t m s
  | .vrcp m => Sys2Proof.Machine.execVrcp m s
  | .vrsqrt m => Sys2Proof.Machine.execVrsqrt m s
  | .vexp2 m => Sys2Proof.Machine.execVexp2 m s
  | .vlog2 m => Sys2Proof.Machine.execVlog2 m s
  | .vsqrt m => Sys2Proof.Machine.execVsqrt m s
  | .vcmpeq t m => Sys2Proof.Machine.execVcmpeq t m s
  | .vcmplt t m => Sys2Proof.Machine.execVcmplt t m s
  | .vcmple t m => Sys2Proof.Machine.execVcmple t m s
  | .vcmpun t m => Sys2Proof.Machine.execVcmpun t m s
  | .vsel w16 m => Sys2Proof.Machine.execVsel w16 m s
  | .vand m => Sys2Proof.Machine.execVand m s
  | .vor m => Sys2Proof.Machine.execVor m s
  | .vxor m => Sys2Proof.Machine.execVxor m s
  | .vshl m => Sys2Proof.Machine.execVshl m s
  | .vshr arith m => Sys2Proof.Machine.execVshr arith m s
  | .vcvt c m => Sys2Proof.Machine.execVcvt c m s
  | .vnarrow ks m => Sys2Proof.Machine.execVnarrow ks m s
  | .vwiden ks m => Sys2Proof.Machine.execVwiden ks m s
  | .vrsum t m => Sys2Proof.Machine.execVrsum t m s
  | .vrmax t m => Sys2Proof.Machine.execVrmax t m s
  | .vrmin t m => Sys2Proof.Machine.execVrmin t m s
  | .vbcast w16 m => Sys2Proof.Machine.execVbcast w16 m s
  | .vperm m => Sys2Proof.Machine.execVperm m s
  | .vext sx m => Sys2Proof.Machine.execVext sx m s
  | .vins m => Sys2Proof.Machine.execVins m s
  | .vrot m => Sys2Proof.Machine.execVrot m s
  | .vld m => Sys2Proof.Machine.execVld m s
  | .vst m => Sys2Proof.Machine.execVst m s
  | .vgth mem m => Sys2Proof.Machine.execVgth mem m s
  | .vsct mem m => Sys2Proof.Machine.execVsct mem m s
  | .vpl op m => Sys2Proof.Machine.execVpl op m s
  | .vectorResultDelivery c => Sys2Proof.Machine.execVectorResultDelivery c s
  | .gatherLaneReply req => Sys2Proof.Machine.execGatherLaneReply req s
  | .mld resume m => Sys2Proof.Machine.execMld resume m s
  | .mst m => Sys2Proof.Machine.execMst m s
  | .transferRetire c => Sys2Proof.Machine.execTransferRetire c s
  | .transferStop c => Sys2Proof.Machine.execTransferStop c s
  | .mmac p m => Sys2Proof.Machine.execMmac p m s
  | .mzero m => Sys2Proof.Machine.execMzero m s
  | .mhad m => Sys2Proof.Machine.execMhad m s
  | .arrayRetire c => Sys2Proof.Machine.execArrayRetire c s
  | .mdrain q1 m => Sys2Proof.Machine.execMdrain q1 m s
  | .drainRowPush c => Sys2Proof.Machine.execDrainRowPush c s
  | .drainRetire c => Sys2Proof.Machine.execDrainRetire c s
  | .mcfg m => Sys2Proof.Machine.execMcfg m s
  | .mldc m => Sys2Proof.Machine.execMldc m s
  | .mldcLand c => Sys2Proof.Machine.execMldcLand c s
  | .mwait m => Sys2Proof.Machine.execMwait m s
  | .sgLim m => Sys2Proof.Machine.execSgLim m s
  | .sgScl m => Sys2Proof.Machine.execSgScl m s
  | .sgPass m => Sys2Proof.Machine.execSgPass m s
  | .sgStat f m => Sys2Proof.Machine.execSgStat f m s
  | .sgWait m => Sys2Proof.Machine.execSgWait m s
  | .sedgeLineArrive c => Sys2Proof.Machine.execSedgeLineArrive c s
  | .sedgeIssueCycle c => Sys2Proof.Machine.execSedgeIssueCycle c s
  | .sedgeRowPush c => Sys2Proof.Machine.execSedgeRowPush c s
  | .sedgePassEnd c => Sys2Proof.Machine.execSedgePassEnd c s
  | .sedgePassFail c => Sys2Proof.Machine.execSedgePassFail c s
  | .cpGo out m => Sys2Proof.Machine.execCpGo out m s
  | .cpFence m => Sys2Proof.Machine.execCpFence m s
  | .cpStat wait m => Sys2Proof.Machine.execCpStat wait m s
  | .cpUiv m => Sys2Proof.Machine.execCpUiv m s
  | .copyLineReply c => Sys2Proof.Machine.execCopyLineReply c s
  | .copyComplete c => Sys2Proof.Machine.execCopyComplete c s
  | .gaGth m => Sys2Proof.Machine.execGaGth m s
  | .gaSct m => Sys2Proof.Machine.execGaSct m s
  | .gaStat wait m => Sys2Proof.Machine.execGaStat wait m s
  | .gaMode m => Sys2Proof.Machine.execGaMode m s
  | .gatherOpComplete c => Sys2Proof.Machine.execGatherOpComplete c s
  | .uiTake c => Sys2Proof.Machine.execUiTake c s
  | .uiret m => Sys2Proof.Machine.execUiret m s
  | .qlvl free m => Sys2Proof.Machine.execQlvl free m s
  | .qwait room m => Sys2Proof.Machine.execQwait room m s
  | .pseq m => Sys2Proof.Machine.execPseq m s
  | .pipeEntryArrive k pipe => Sys2Proof.Machine.execPipeEntryArrive k pipe s
  | .ringacq m => Sys2Proof.Machine.execRingacq m s
  | .ringrel m => Sys2Proof.Machine.execRingrel m s
  | .ringst f m => Sys2Proof.Machine.execRingst f m s
  | .hbar m => Sys2Proof.Machine.execHbar m s
  | .phaseStart k => Sys2Proof.Machine.execPhaseStart k s
  | .xmit d m => Sys2Proof.Machine.execXmit d m s
  | .xsel d m => Sys2Proof.Machine.execXsel d m s
  | .linkWordArrive k d => Sys2Proof.Machine.execLinkWordArrive k d s
  | .hend m => Sys2Proof.Machine.execHend m s
  | .phaseEnd k => Sys2Proof.Machine.execPhaseEnd k s
  | .post m => Sys2Proof.Machine.execPost m s
  | .yield m => Sys2Proof.Machine.execYield m s
  | .wait m => Sys2Proof.Machine.execWait m s
  | .endStrand m => Sys2Proof.Machine.execEndStrand m s
  | .arga m => Sys2Proof.Machine.execArga m s
  | .jinit m => Sys2Proof.Machine.execJinit m s
  | .jdec m => Sys2Proof.Machine.execJdec m s
  | .hashu m => Sys2Proof.Machine.execHashu m s
  | .snap m => Sys2Proof.Machine.execSnap m s
  | .snfind m => Sys2Proof.Machine.execSnfind m s
  | .snpin m => Sys2Proof.Machine.execSnpin m s
  | .snrel m => Sys2Proof.Machine.execSnrel m s
  | .snstat f m => Sys2Proof.Machine.execSnstat f m s
  | .kvadv m => Sys2Proof.Machine.execKvadv m s
  | .kvpin m => Sys2Proof.Machine.execKvpin m s
  | .strd f m => Sys2Proof.Machine.execStrd f m s
  | .tkResultDelivery c => Sys2Proof.Machine.execTkResultDelivery c s
  | .capst m => Sys2Proof.Machine.execCapst m s
  | .tret m => Sys2Proof.Machine.execTret m s
  | .trap m => Sys2Proof.Machine.execTrap m s
  | .brk m => Sys2Proof.Machine.execBrk m s
  | .clkdiv d m => Sys2Proof.Machine.execClkdiv d m s
  | .ecnt m => Sys2Proof.Machine.execEcnt m s
  | .ncsr m => Sys2Proof.Machine.execNcsr m s
  | .ncsw clr m => Sys2Proof.Machine.execNcsw clr m s
  | .sysr m => Sys2Proof.Machine.execSysr m s
  | .sysw m => Sys2Proof.Machine.execSysw m s
  | .revoke c => Sys2Proof.Machine.execRevoke c s
  | .ecsetPreset c x v => Sys2Proof.Machine.execEcsetPreset c x v s
  | .capr f m => Sys2Proof.Machine.execCapr f m s
  | .trapEntry c => Sys2Proof.Machine.execTrapEntry c s
  | .strandEndFault c => Sys2Proof.Machine.execStrandEndFault c s
  | .dblfault c => Sys2Proof.Machine.execDblfault c s
  | .wdfreeze c => Sys2Proof.Machine.execWdfreeze c s
  | .pipewd c => Sys2Proof.Machine.execPipewd c s
  | .segmentExpanded c => Sys2Proof.Machine.execSegmentExpanded c s
  | .pickup c => Sys2Proof.Machine.execPickup c s
  | .gangRelease k => Sys2Proof.Machine.execGangRelease k s
  | .sliceExpire c => Sys2Proof.Machine.execSliceExpire c s
  | .contextSwitch c => Sys2Proof.Machine.execContextSwitch c s
  | .sliceovr c => Sys2Proof.Machine.execSliceovr c s
  | .launchNop x => Sys2Proof.Machine.execLaunchNop x s
  | .launch x => Sys2Proof.Machine.execLaunch x s
  | .launchGang x => Sys2Proof.Machine.execLaunchGang x s
  | .streamOpen x => Sys2Proof.Machine.execStreamOpen x s
  | .streamClose x => Sys2Proof.Machine.execStreamClose x s
  | .launchUnpark id => Sys2Proof.Machine.execLaunchUnpark id s
  | .launchStartDue id => Sys2Proof.Machine.execLaunchStartDue id s
  | .recordRelease k => Sys2Proof.Machine.execRecordRelease k s
  | .commandDoorbell x tail => Sys2Proof.Machine.execCommandDoorbell x tail s
  | .hostRegisterWrite off v => Sys2Proof.Machine.execHostRegisterWrite off v s
  | .gtset v => Sys2Proof.Machine.execGtset v s
  | .bkenEnable t => Sys2Proof.Machine.execBkenEnable t s
  | .bkenDisable t => Sys2Proof.Machine.execBkenDisable t s
  | .snapshotExport => Sys2Proof.Machine.execSnapshotExport s
  | .snapshotImport => Sys2Proof.Machine.execSnapshotImport s
  | .snapshotUnpin => Sys2Proof.Machine.execSnapshotUnpin s
  | .attest => Sys2Proof.Machine.execAttest s
  | .energyReading => Sys2Proof.Machine.execEnergyReading s
  | .fetchReading => Sys2Proof.Machine.execFetchReading s
  | .rrel strm v => Sys2Proof.Machine.execRrel strm v s
  | .replay v => Sys2Proof.Machine.execReplay v s
  | .totalClr acct => Sys2Proof.Machine.execTotalClr acct s
  | .decodeJob d x => Sys2Proof.Machine.execDecodeJob d x s
  | .decodeJobDone d codec stream bad => Sys2Proof.Machine.execDecodeJobDone d codec stream bad s
  | .encoderEntryArrive e => Sys2Proof.Machine.execEncoderEntryArrive e s
  | .encoderTakeEntry e => Sys2Proof.Machine.execEncoderTakeEntry e s
  | .frameCoded e => Sys2Proof.Machine.execFrameCoded e s
  | .hostWriteArrive a data => Sys2Proof.Machine.execHostWriteArrive a data s
  | .retentionEntry k => Sys2Proof.Machine.execRetentionEntry k s
  | .retentionWake k lost => Sys2Proof.Machine.execRetentionWake k lost s
  | .sliceTagError sl => Sys2Proof.Machine.execSliceTagError sl s
  | .ptmExchange offset ok => Sys2Proof.Machine.execPtmExchange offset ok s
  | .ptmHoldover => Sys2Proof.Machine.execPtmHoldover s
  | .pressureRaise k l => Sys2Proof.Machine.execPressureRaise k l s
  | .pressureLower k => Sys2Proof.Machine.execPressureLower k s
  | .ageingCheck k v => Sys2Proof.Machine.execAgeingCheck k v s
  | .harvest => Sys2Proof.Machine.execHarvest s
  | .thermwarn k temp => Sys2Proof.Machine.execThermwarn k temp s
  | .emergencySave => Sys2Proof.Machine.execEmergencySave s
  | .railCut => Sys2Proof.Machine.execRailCut s
  | .thermalTripClear temp => Sys2Proof.Machine.execThermalTripClear temp s
  | .powerUp firmware aonValid => Sys2Proof.Machine.execPowerUp firmware aonValid s
  | .sliceAccessServe req => Sys2Proof.Machine.execSliceAccessServe req s
  | .hostSnoop a inval => Sys2Proof.Machine.execHostSnoop a inval s
  | .emptyLaunchComplete id => Sys2Proof.Machine.execEmptyLaunchComplete id s

end Sys2Proof.Machine
end

