-- ==== Sys2Proof/Machine/Next.lean ====
section
/-! DEFINITION. What a core does next: the bundle at its resume point, or the delivery, switch or watchdog
that comes before it; and the strand and bundle that a placed word runs in (log 3, log 13). -/

namespace Sys2Proof.Machine

/-- The earliest running core of a list that begins at number i: its time and number. -/
def leastCore : List Core → Nat → Option (Nat × Nat) → Option (Nat × Nat)
  | [], _, best => best
  | k :: r, i, best =>
    leastCore r (i + 1) (if k.phase = .idle then best
      else match best with
        | none => some (k.time, i)
        | some (t, j) => if k.time < t then some (k.time, i) else some (t, j))

/-- The expanded segment at an address in a half of the loop buffer. -/
def Half.segmentAt (h : Half) (a : BitVec 56) : Option Segment :=
  match h with
  | .full g => if g.addr = a then some g else none
  | _ => none

/-- The bundle at a core's resume point; zero bits while its segment is not expanded (R75). -/
def fetchBundle (k : Core) : BitVec 256 :=
  match ((k.half k.cur).segmentAt k.pc.seg).or ((k.half (1 - k.cur)).segmentAt k.pc.seg) with
  | some g => g.bundles[k.pc.bix.toNat]?.getD 0
  | none => 0

/-- A user-level interrupt is taken at a bundle boundary (R180), not before a bundle that TRET re-enters has
run (R238, R239). -/
def uiDue (k : Core) : Bool :=
  decide (0 < k.ui.pending) && !k.ui.active && !k.masked && k.ui.target.isSome && k.phase == .run
    && !k.bs.committed && k.bs.frozenSince.isNone && k.bs.resume == 0 && !k.bs.quiet

/-- How long the bundle has been frozen, in nanoseconds of the global timer (R168). -/
def frozenFor (s : State) (k : Core) : Nat :=
  match k.bs.frozenSince with
  | some t => s.die.timer.at s.now - s.die.timer.at t
  | none => 0

/-- The watchdog that fires on a core: freezes of a bundle, of its end and of a leaving strand are measured (R168). -/
def watchdogDue (s : State) (k : Core) : Option Cause :=
  if !k.bs.frozenSince.isSome || !k.phase.measured || s.pausedByPhase then none
  else if k.bs.pipeWait then (if s.die.pwdl ≤ frozenFor s k then some .pipewd else none)
  else if s.die.fwdl ≤ frozenFor s k then some .wdfreeze
  else none

/-- A strand of a terminated context is discarded at its bundle's boundary (R243). -/
def deadDue (s : State) (k : Core) : Bool :=
  (s.ctx k.ctx).dead && (k.atBoundary || (k.phase != .run && k.phase != .ending))

/-- An emergency save stops the strands of the context it saves at their bundles' boundaries (R387). -/
def savingDue (s : State) (k : Core) : Bool :=
  s.die.saving.map (BitVec.ofNat 4) == some k.ctx && k.atBoundary

/-- What the core at hand does next. -/
def coreAction (s : State) (c : CoreId) : Instr :=
  let k := s.core c
  if deadDue s k then .dblfault c
  else if savingDue s k then .contextSwitch c
  else match k.phase with
    | .faulting r =>
      if k.masked || r.cause == .dblfault then .dblfault c
      else if r.cause.toHandler && decide ((s.ctx k.ctx).tvec ≠ 0) then .trapEntry c
      else .strandEndFault c
    | .switching => (match watchdogDue s k with | some _ => .wdfreeze c | none => .contextSwitch c)
    | _ =>
      if uiDue k && !s.pausedByPhase then .uiTake c
      else match watchdogDue s k with
        | some .pipewd => .pipewd c
        | some _ => .wdfreeze c
        | none => .bundleExecute (fetchBundle k)

/-- What the part does next and when: a scheduled step, or a core's, a scheduled one first on a tie, then the
lowest core; none when nothing runs and nothing is scheduled. -/
inductive Turn where
  | event (t : Nat) (i : Instr) (rest : List (Nat × Instr))
  | core (t : Nat) (c : CoreId)
  | rest
deriving DecidableEq, Repr

def State.turn (s : State) : Turn :=
  match s.events, leastCore s.cores.toList 0 none with
  | [], none => .rest
  | (t, i) :: r, none => .event t i r
  | [], some (t, c) => .core t (BitVec.ofNat 9 c)
  | (u, i) :: r, some (t, c) => if u ≤ t then .event u i r else .core t (BitVec.ofNat 9 c)

/-- The clock at the time of a turn; a scheduled step leaves the list, a core's turn makes it the executing
core. -/
def State.atTurn (s : State) (t : Turn) : State :=
  State.takeStimuli (match t with
    | .event u _ r => { s with now := Nat.max s.now u, events := r }
    | .core u c => { s with now := Nat.max s.now u, cur := c }
    | .rest => { s with now := s.now + 5 })

/-- A strand to run a placed bundle: context 0, no launch. -/
def probeStrand : Running where
  uid := 0
  rcd := ⟨0, 0, 0, 0, 0, 0, 0, 0⟩
  rflg := 0
  launch := none
  gang := none
  frozen := 0
  split := 0
  vc := []
  relFence := []
  lastRead := 0
  readMsgs := []

/-- The bundle of a slot alone: read ports allotted as it needs them, other slots absent (R52, R72). -/
def probeBundle (w : BitVec 24) : BitVec 256 :=
  let n := match decodeSlot w with | .ok i => i.reads .g | .error _ => 0
  packBundle (BitVec.ofNat 64 ((2 ^ (Nat.min n 4) - 1) * 2 ^ 36)) fun k => if k = 0 then w else absentSlot

/-- The core on which a placed bundle runs: a supervisor strand whose segment is resident in its loop buffer. -/
def probeCore (k : Core) (b : BitVec 256) : Core :=
  { k with
    time := 0
    ctx := 0
    phase := .run
    pc := ⟨32, 0⟩
    cur := 0
    halves := #v[.full ⟨32, 0, 0, false, none, [b, b]⟩, .empty]
    halfCtx := Vector.replicate 2 0
    run := some probeStrand
    bs := BundleState.reset }

end Sys2Proof.Machine
end

