-- ==== Sys2Proof/Machine/Step.lean ====
section
/-! DEFINITION. One step of the part (log 3). -/

namespace Sys2Proof.Machine

/-- One step: the scheduled step or the core whose turn it is. Where nothing runs and nothing is scheduled a
ref tick passes, unless the rails are cut. -/
def step (s : State) : Host.Outcome State Fault Refusal :=
  match s.turn with
  | .event t i r => exec i (s.atTurn (.event t i r))
  | .core t c => exec (coreAction (s.atTurn (.core t c)) c) (s.atTurn (.core t c))
  | .rest => if s.die.powered then .next (s.atTurn .rest) else .fault .railsCut

/-- An instruction placed where the next step fetches it: core 0 runs a supervisor strand whose segment,
resident in its loop buffer, holds the bundle at its resume point; nothing else is scheduled first
(log 13). -/
def State.withFetchWord (s : State) (nbits w : Nat) : State :=
  let b := if nbits ≤ 24 then probeBundle (BitVec.ofNat 24 w) else BitVec.ofNat 256 w
  { s.onCore 0 (probeCore · b) with events := [] }

end Sys2Proof.Machine
end

