-- ==== Sys2Proof/Safety.lean ====
section
/-! DEFINITION. What a safe run is: a step that ends in neither a fault nor a refusal. -/

namespace Sys2Proof.Machine

/-- The step goes on. -/
def StepsSafely (s : State) : Prop := ∃ t, step s = .next t

end Sys2Proof.Machine
end

