-- ==== Sys2Proof/WellFormed.lean ====
section
/-! DEFINITION. Well-formed instructions: what the encodings and the outside admit. -/

namespace Sys2Proof

/-- A source that some encoding names: no unassigned special readable (R27). -/
def Src.wf : Src → Bool
  | .reg n => decide (nameSpace n.toNat ≠ .un)
  | _ => true

/-- A request, launch or frame is any number; bytes the outside writes fit the 52-bit space (R4). -/
def WellFormed (i : Instr) : Bool :=
  match i with
  | .hostWriteArrive a d => decide (d ≠ []) && decide (a.toNat + d.length ≤ 2 ^ 52)
  | .pressureRaise _ l => decide (l ≠ 0)
  | .ageingCheck _ v => decide (3 ≤ v.toNat) && decide (v.toNat ≤ 15)
  | i => (match i.src? with | some s => s.wf | none => true) && i.check.isNone

end Sys2Proof
end

