-- ==== Sys2Proof/Certificates/Slice0/Obligations.lean ====
section
/-! DEFINITION. The statements of this row about the machine, from the numbered rules of the spec. -/

open Sys2Proof Sys2Proof.Machine

/-! ## Vocabulary of the statements -/

namespace Sys2Proof.Claims

/-- A move about to commit: its source reads v, no transfer phase and no pending acquire bars it. -/
def Ready (s : State) (i : Instr) (v : V512) : Prop :=
  s.slotValue i = .val v ∧ s.phaseBars i = false ∧ s.holds i = false

/-- Where a trigger's result goes: none of the registers under K, else the register in the `.to` port, where
that accepts the class and awaits no load (R61, R62, R165). -/
def destOf (s : State) (cls : ResClass) (keep : Bool) (dp : Port) : Option (Option RegName) :=
  if keep then some none
  else match s.me.port dp with
    | none => none
    | some w =>
      match destCount cls (w.toNat % 256) with
      | none => none
      | some n =>
        if (groupNames s.me.vrb s.me.prb (w.toNat % 256) n).any fun r =>
            s.me.fl.any fun g => g.isLoad && g.names.contains r
        then none else some (some (BitVec.ofNat 8 w.toNat))

/-- A result put in flight, and the step that delivers it scheduled. -/
def delivers (c : State) (u : FUnit) (cls : ResClass) (d : Option RegName) (r : V512) (fl : Flags) (lat : Nat)
    (wake : Option Instr) : State :=
  match wake with
  | none => (c.launchFlight u cls d r fl lat).2
  | some i => (c.launchFlight u cls d r fl lat).2.schedule (c.launchFlight u cls d r fl lat).1 i

/-- A value of 64 bits as it is moved. -/
def wide (r : BitVec 64) : V512 := r.setWidth 512

/-- The low 64 and 32 bits of a moved value. -/
def lo64 (v : V512) : BitVec 64 := v.setWidth 64
def lo32 (v : V512) : BitVec 32 := v.setWidth 32

/-- A result on the width of a selector Wd: 64 bits, or 32 bits extended (R106). -/
def onWd (f : Wd) (r64 : BitVec 64) (r32 : BitVec 32) : BitVec 64 :=
  match f with
  | .w64 => r64
  | .w32s => r32.signExtend 64
  | .w32z => r32.setWidth 64

/-- A result on the width and sign of a selector Sw (R106). -/
def onSw (f : Sw) (s64 : BitVec 64) (s32 : BitVec 32) (u64 : BitVec 64) (u32 : BitVec 32) : BitVec 64 :=
  match f with
  | .sg64 => s64
  | .sg32 => s32.signExtend 64
  | .un64 => u64
  | .un32 => u32.setWidth 64

/-- An integer trigger completes: the result r of ia.x or ib.x and the source is in flight, due after lat
control cycles, and nothing else has changed but the charge (R61, R90, R106, R109). -/
def IntGives (i : Instr) (u : IntUnit) (k : Bool) (lat : Nat) (r : V512 → V512 → BitVec 64) : Prop :=
  ∀ (s : State) (v x : V512) (d : Option RegName), Ready s i v → s.me.port (intX u) = some x →
    destOf s .s k (intTo u) = some d →
    exec i s = .next (delivers (s.chargeSlot i) (intUnit u) .s d (wide (r x v)) 0 lat
      (some (.intResultDelivery s.cur u))).flushDeferred

/-- The same for a trigger that does not read the operand port. -/
def IntGivesUnary (i : Instr) (u : IntUnit) (k : Bool) (r : V512 → BitVec 64) : Prop :=
  ∀ (s : State) (v : V512) (d : Option RegName), Ready s i v → destOf s .s k (intTo u) = some d →
    exec i s = .next (delivers (s.chargeSlot i) (intUnit u) .s d (wide (r v)) 0 1
      (some (.intResultDelivery s.cur u))).flushDeferred

/-- A divide completes while the unit's divider is free, and occupies it (R109). -/
def DivGives (i : Instr) (u : IntUnit) (f : Sw) (k : Bool) (r : V512 → V512 → BitVec 64) : Prop :=
  ∀ (s : State) (v x : V512) (d : Option RegName), Ready s i v → s.me.port (intX u) = some x →
    dividerBusy s.me u = false → destOf s .s k (intTo u) = some d →
    exec i s = .next ((delivers (s.chargeSlot i) (intUnit u) .s d (wide (r x v)) 0
        (match f with | .sg32 => 12 | .un32 => 12 | _ => 20) (some (.intResultDelivery s.cur u))).onMe fun c =>
      { c with fl := c.fl.map fun g => if g.id = s.nextId then { g with divider := true } else g }).flushDeferred

/-- Quotient and remainder, of zero divisors too (R107). -/
def quot {n : Nat} (signed : Bool) (x y : BitVec n) : BitVec n :=
  if y = 0 then BitVec.allOnes n else if signed then x.sdiv y else x / y

def remd {n : Nat} (signed : Bool) (x y : BitVec n) : BitVec n :=
  if y = 0 then x else if signed then x.srem y else x % y

/-- Saturation of an exact integer between bounds, in n bits. -/
def satTo (n : Nat) (lo hi v : Int) : BitVec n := BitVec.ofInt n (if v < lo then lo else if hi < v then hi else v)

/-- The comparison of R91 over 64 bits. -/
def holds (c : Cc) (x y : BitVec 64) : Bool :=
  match c with
  | .eq => x == y
  | .ne => x != y
  | .lt => x.slt y
  | .ge => y.sle x
  | .ltu => x.ult y
  | .geu => y.ule x
  | .le => x.sle y
  | .gt => y.slt x
  | .leu => x.ule y
  | .gtu => y.ult x

/-- Bytes of a value in reverse order. -/
def byteRev : (n : Nat) → Nat → Nat
  | 0, _ => 0
  | n + 1, x => x % 256 * 256 ^ n + byteRev n (x / 256)

/-- The bits a field of R108 takes from x: WID of them from POS. -/
def fieldOf (signed : Bool) (w x sel : Nat) : Int :=
  let pos := sel % 128
  let wid := Nat.min (sel / 256 % 128) w
  if wid = 0 ∨ w ≤ pos then 0
  else if signed then (BitVec.ofNat wid (x / 2 ^ pos)).toInt else (x / 2 ^ pos % 2 ^ wid : Nat)

end Sys2Proof.Claims

open Sys2Proof.Claims

/-! ## Decoding and the step -/

/-- Words of R56 to R103 written out from the spec's encodings decode to the moves they stand for. -/
def Obligations.DecodeReadsTheSpecsWords : Prop :=
  decodeTableWord 24 0x00D57E = some (.lda .d .die ⟨.reg 0x03, false⟩) ∧
  decodeTableWord 24 0xC41FF0 = some (.nullMove 3 0x10 false 0) ∧
  decodeTableWord 24 0x811000 = some (.operandPortWrite (.imm 4) .iaX) ∧
  decodeTableWord 24 0x010050 = some (.moveToRegister (.reg 0x04) 0x05) ∧
  decodeTableWord 24 0x041020 = some (.add .ia .w64 ⟨.reg 0x10, false⟩) ∧
  decodeTableWord 24 0xC01421 = some (.jmp .seg ⟨.pool .pool, false⟩) ∧
  decodeTableWord 24 0x143770 = some (.vadd (.fl .f32) ⟨.reg 0x50, true⟩) ∧
  decodeTableWord 24 0xC41E50 = some (.endStrand ⟨.pool .zero, false⟩) ∧
  decodeTableWord 24 0x825F60 = some (.trap ⟨.imm 9, false⟩) ∧
  decodeTableWord 24 0x0015F1 = none ∧ decodeTableWord 24 0x000FC0 = none

/-- Every instruction that has words decodes from them: encoding and decoding agree on every well-formed move,
with every operand, and on every bundle. -/
def Obligations.DecodeOfEncodeIsTheInstruction : Prop :=
  ∀ (i : Instr) (n w : Nat), WellFormed i = true → encode i = some (n, w) → decodeTableWord n w = some i

/-- The other way: what a slot's 24 bits decode to is well formed and encodes to those bits, so no two words
have one meaning. -/
def Obligations.EncodeOfDecodeIsTheWord : Prop :=
  ∀ (w : BitVec 24) (i : Instr), decodeSlot w = .ok i →
    encode i = some (24, w.toNat) ∧ WellFormed i = true

/-- Bits [35:32] not zero, or KIND 6 to 15, raise ILLENC at decode (R51). That the fault is reported as of slot 0 is the
model's reading (log 16, DEDUCED). -/
def Obligations.BadHeaderRaisesIllenc : Prop :=
  ∀ (s t : State) (b : BitVec 256) (g : Segment),
    ((bundleHeader b).extractLsb' 32 4 ≠ 0 ∨ 6 ≤ hdrKind (bundleHeader b)) →
    s.findSegment = (true, t) → t.me.segment = some g → g.bad = none → t.me.pc.bix.toNat < g.bundles.length →
    s.decodeCycle b = t.fault .illenc none 0 false

/-- The bundle at the resume point of a running core is what the step executes, when the core's turn comes; and the
first scheduled step runs before any core whose next cycle is not earlier, with the clock at its time and itself off
the list (the order is the model's, log 3). -/
def Obligations.StepRunsWhatIsDue : Prop :=
  (∀ (s : State) (t : Nat) (c : CoreId), s.turn = .core t c →
     let u := s.atTurn (.core t c)
     (u.core c).phase = .run → deadDue u (u.core c) = false → savingDue u (u.core c) = false →
     (uiDue (u.core c) = false ∨ u.pausedByPhase = true) → watchdogDue u (u.core c) = none →
     step s = exec (.bundleExecute (fetchBundle (u.core c))) u ∧
     ∀ (g : Segment) (b : BitVec 256), (u.core c).half (u.core c).cur = .full g →
       g.addr = (u.core c).pc.seg → g.bundles[(u.core c).pc.bix.toNat]? = some b →
       step s = exec (.bundleExecute b) u) ∧
  (∀ (s : State) (t : Nat) (i : Instr) (r : List (Nat × Instr)), s.events = (t, i) :: r →
     (∀ c : CoreId, (s.core c).phase ≠ .idle → t ≤ (s.core c).time) →
     step s = exec i (State.takeStimuli { s with now := Nat.max s.now t, events := r }))

/-- A bundle's eight moves are those of its eight slots (R49, R66). Each move that a slot may hold runs by the
commit that its slot performs, so its meaning alone and in a bundle is one; a move whose effect is at its bundle's
end also runs that end. A bundle commits its slots in slot order: the slots before the resume point are skipped,
one that commits hands its state to the next, and one that raises a fault stops the bundle there, begun (R65, R66,
R68). -/
def Obligations.BundlesCommitTheirMovesInOrder : Prop :=
  (∀ (b : BitVec 256) (ui : Bool) (l : List Instr), decodeBundle b ui = .ok l →
    l.length = 8 ∧ ∀ k, k < 8 → ∃ i, l[k]? = some i ∧ decodeSlot (bundleSlot b k) = .ok i) ∧
  (∀ (i : Instr) (s : State), encodeSlot i ≠ none →
    exec i s = match i with
      | .yield _ | .wait _ | .endStrand _ | .tret _ | .uiret _ | .clkdiv _ _ | .hbar _ | .hend _ =>
        runMoveEnd i (commitMove i) s
      | _ => runMove i (commitMove i) s) ∧
  (∀ (n : Nat) (l : List Instr) (s : State) (i : Instr), l[s.me.bs.slot]? = some i →
    let past (t : State) : State := t.onMe fun c => { c with bs := { c.bs with slot := s.me.bs.slot + 1 } }
    (s.me.bs.slot < s.me.bs.resume → commitSlots (n + 1) l s = commitSlots n l (past s)) ∧
    (s.me.bs.resume ≤ s.me.bs.slot →
      (∀ t, slotCommit i s = .ok t → commitSlots (n + 1) l s = commitSlots n l (past t)) ∧
      (∀ c a, slotCommit i s = .raise c a →
        commitSlots (n + 1) l s = (false, s.fault c a s.me.bs.slot true))))

/-! ## Moves to registers and ports -/

/-- A move to a register writes the group R60 names, through the rotating bases, and nothing else; toward an h
register from g or o registers V is 0 (R59, R60, R156). A null move and a move to an operand port do no more
than charge and set the port (R61, R63). -/
def Obligations.MovesWriteTheirRegisterOrPort : Prop :=
  (∀ (s : State) (src : Src) (dst : RegName) (v : V512), Ready s (.moveToRegister src dst) v →
    (groupNames s.me.vrb s.me.prb dst.toNat (moveDest src dst)).all (fun n => !s.me.busyReg n) = true →
    exec (.moveToRegister src dst) s = .next (((s.chargeSlot (.moveToRegister src dst)).onMe fun k =>
      k.writeRegs k.vrb k.prb dst.toNat (moveDest src dst)
        (if nameSpace dst.toNat = .h ∧ src.cls = .s then v.toNat % 2 ^ 127 else v.toNat)).flushDeferred)) ∧
  (∀ (s : State) (src : Src) (p : Port) (v : V512), Ready s (.operandPortWrite src p) v →
    (p.isTo = true → v.toNat < 256 ∧ nameSpace v.toNat ≠ .sp ∧ nameSpace v.toNat ≠ .un ∧ nameSpace v.toNat ≠ .m ∧
      nameSpace v.toNat ≠ .a ∧ (nameSpace v.toNat = .x → s.me.ui.active = true)) →
    exec (.operandPortWrite src p) s =
      .next (((s.chargeSlot (.operandPortWrite src p)).onMe fun k => k.setPort p v).flushDeferred)) ∧
  (∀ (s : State) (a : BitVec 2) (b : BitVec 8) (k : Bool) (f : BitVec 4) (v : V512), Ready s (.nullMove a b k f) v →
    exec (.nullMove a b k f) s = .next ((s.chargeSlot (.nullMove a b k f)).flushDeferred))

/-- A written g, o, v, p, h, c, f, z or x register reads its value, reduced to its width, and every other physical
register reads as before (R17, R18). The rotating part of a file maps by its base; v0 to v31, p0 to p7 and every other
file never rotate, and no two names of a file map to one register (R25). -/
def Obligations.RegistersReadBackAndRotate : Prop :=
  (∀ (r : RegFile) (n m v : Nat), n < 256 → m < 256 → nameSpace n ≠ .m → nameSpace n ≠ .a → nameSpace n ≠ .sp →
     nameSpace n ≠ .un →
     (r.write n v).read m = if m = n then v % 2 ^ (nameSpace n).width else r.read m) ∧
  (∀ (vrb prb : Nat), vrb < 32 → prb < 8 →
     (∀ n, 32 ≤ n → n < 64 → physName vrb prb (0x50 + n) = 0x50 + (32 + (n - 32 + vrb) % 32)) ∧
     (∀ n, 8 ≤ n → n < 16 → physName vrb prb (0x90 + n) = 0x90 + (8 + (n - 8 + prb) % 8)) ∧
     (∀ n, (n < 0x70 ∨ (0x90 ≤ n ∧ n < 0x98) ∨ 0xA0 ≤ n) → physName vrb prb n = n) ∧
     (∀ n m, n < 256 → m < 256 → physName vrb prb n = physName vrb prb m → n = m))

/-- The energy class of a move by the class table of R90 and the Cls entries of R92 to R103; none of an MMAC while no
tile configuration is in force, and of what is no move. -/
def Sys2Proof.Claims.energyClass (i : Instr) (k : Core) : Option (Fin 16) :=
  match i with
  | .nullMove .. => some 0
  | .moveToRegister .. | .operandPortWrite .. => some 1
  | .add .. | .sub .. | .and .. | .or .. | .xor .. | .andn .. | .shl .. | .shr .. | .sar .. | .rol .. | .min .. | .max ..
  | .cmp .. | .clz .. | .ctz .. | .popc .. | .ext .. | .bswap .. | .adds .. | .subs .. | .pass .. => some 2
  | .mul .. | .mulh .. | .div .. | .rem .. => some 3
  | .jmp .. | .bz .. | .bnz .. | .call .. | .loop .. | .lpop .. | .lcnt .. | .lset .. | .post .. | .yield .. | .wait ..
  | .endStrand .. | .arga .. | .jinit .. | .jdec .. | .strd .. => some 4
  | .ld .. | .st .. | .trn .. | .pf .. | .wb .. | .inv .. | .hinfo .. => some 5
  | .lda .. | .strl .. | .fence .. | .atom .. | .clrd .. | .cms .. | .lock .. | .unlock .. => some 6
  | .vadd t _ | .vsub t _ | .vmul t _ | .vmin t _ | .vmax t _ => some (if t = .fl .f32 then 7 else 8)
  | .vfma t _ | .vfms t _ | .vfnma t _ => some (if t = .f32 then 7 else 8)
  | .vabs .. | .vneg .. | .vcmpeq .. | .vcmplt .. | .vcmple .. | .vcmpun .. | .vsel .. | .vand .. | .vor .. | .vxor ..
  | .vshl .. | .vshr .. | .vcvt .. | .vnarrow .. | .vwiden .. | .vpl .. => some 8
  | .vrcp .. | .vrsqrt .. | .vexp2 .. | .vlog2 .. | .vsqrt .. | .vrsum .. | .vrmax .. | .vrmin .. | .vbcast .. | .vperm ..
  | .vext .. | .vins .. | .vrot .. => some 9
  | .vld .. | .vst .. | .vgth .. | .vsct .. => some 10
  | .mld .. | .mst .. | .mzero .. | .mdrain .. | .mcfg .. | .mhad .. | .mldc .. | .mwait .. => some 11
  | .mmac .. => k.mx.cfg.map fun g => if fmtWidth g.fa ≤ 4 ∧ fmtWidth g.fb ≤ 4 then 13 else 12
  | .sgLim .. | .sgScl .. | .sgPass .. | .sgStat .. | .sgWait .. => some 14
  | .cpGo .. | .cpFence .. | .cpStat .. | .cpUiv .. | .gaGth .. | .gaSct .. | .gaStat .. | .gaMode .. | .uiret ..
  | .qlvl .. | .qwait .. | .pseq .. | .ringacq .. | .ringrel .. | .ringst .. | .hbar .. | .xmit .. | .xsel .. | .hend ..
  | .push .. | .hashu .. | .snap .. | .snfind .. | .snpin .. | .snrel .. | .snstat .. | .kvadv .. | .kvpin .. | .capst ..
  | .tret .. | .trap .. | .brk .. | .clkdiv .. | .ecnt .. | .ncsr .. | .ncsw .. | .sysr .. | .sysw .. | .capr .. => some 15
  | _ => none

/-- The register that a `.to` port names still awaits a load (R165). -/
def Sys2Proof.Claims.destAwaited (s : State) (cls : ResClass) (dp : Port) : Prop :=
  ∃ w n, s.me.port dp = some w ∧ destCount cls (w.toNat % 256) = some n ∧
    ((groupNames s.me.vrb s.me.prb (w.toNat % 256) n).any fun r => s.me.fl.any fun g => g.isLoad && g.names.contains r) = true

/-- The bundle freezes at its slot. -/
def Sys2Proof.Claims.Freezes (i : Instr) (s : State) : Prop := ∃ w, exec i s = .next (s.freeze [w] s.me.bs.slot)

/-- A slot that commits is charged the weight CW of its energy class, by R90's table, to the counter of the running
context, and nothing else changes, while the counter does not saturate; when it would, it saturates, SATF is set and
one ESAT event is written; a saturated counter stays (R90, R256, R258). A move whose source is not ready freezes its
bundle, and so does a move to a register that awaits a result, a trigger of any unit whose `.to` register awaits a load,
and a trigger whose unit is busy: a divide while its divider is, a pass or a copy while no other may start, a transfer
of a tile in use (R59, R65, R109, R165, R167, R170, R184, R208): a control cycle passes, CCYC and FRZ count it, and no
register, memory byte or port changes. A move barred in a transfer phase raises ILLOPD (R281). -/
def Obligations.SlotsChargeOrFreeze : Prop :=
  (∀ (i : Instr) (s : State) (n : Fin 16), energyClass i s.me = some n →
    s.chargeSlot i = s.chargeUnits s.cur (s.die.cw[n]).toNat) ∧
  (∀ (s : State) (src : Src) (dst : RegName) (v : V512), Ready s (.moveToRegister src dst) v →
    (groupNames s.me.vrb s.me.prb dst.toNat (moveDest src dst)).any s.me.busyReg = true →
    Freezes (.moveToRegister src dst) s) ∧
  (∀ (s : State) (m : Mv) (v x : V512), m.k = false →
    (∀ u f, Ready s (.add u f m) v → s.me.port (intX u) = some x → destAwaited s .s (intTo u) → Freezes (.add u f m) s) ∧
    (Ready s (.vand m) v → s.me.port .vxX = some x → destAwaited s .v .vxTo → Freezes (.vand m) s) ∧
    (∀ f, Ready s (.hinfo f m) v → destAwaited s .s .lsTo → Freezes (.hinfo f m) s) ∧
    (Ready s (.lcnt m) v → s.me.loops[sval v % 4]?.isSome = true → destAwaited s .s .brTo → Freezes (.lcnt m) s) ∧
    (Ready s (.ecnt m) v → destAwaited s .s .syTo → Freezes (.ecnt m) s)) ∧
  (∀ (s : State) (m : Mv) (v x : V512),
    (∀ u f, s.me.port (intX u) = some x → dividerBusy s.me u = true →
      (Ready s (.div u f m) v → Freezes (.div u f m) s) ∧ (Ready s (.rem u f m) v → Freezes (.rem u f m) s)) ∧
    (Ready s (.sgPass m) v → s.me.sg.pass.isSome = true → Freezes (.sgPass m) s) ∧
    (∀ out, Ready s (.cpGo out m) v → s.me.cp.active.isSome = true → s.me.cp.pending.isSome = true →
      Freezes (.cpGo out m) s) ∧
    (Ready s (.mst m) v → (s.chargeSlot (.mst m)).me.mx.hazard .xfer [tileOf v.toNat] [] = true → Freezes (.mst m) s)) ∧
  (∀ (s : State) (c : CoreId) (w : Nat),
    let p := (s.core c).pctx
    (p.satf = true → s.chargeUnits c w = s) ∧
    (p.satf = false → p.ec.toNat + w < 2 ^ 56 →
      s.chargeUnits c w = s.onCore c fun k => k.onPctx fun q => { q with ec := q.ec + BitVec.ofNat 56 w }) ∧
    (p.satf = false → 2 ^ 56 ≤ p.ec.toNat + w →
      s.chargeUnits c w = (s.onCore c fun k => k.onPctx fun q =>
        { q with ec := BitVec.allOnes 56, satf := true }).postEvent (s.core c).ctx 0x84 0x0300 c.toNat)) ∧
  ∀ (i : Instr) (s : State), encodeSlot i ≠ none →
    (∀ w, s.slotValue i = .freeze w → exec i s = .next (s.freeze [w] s.me.bs.slot)) ∧
    (∀ v, s.slotValue i = .val v → s.phaseBars i = true →
      exec i s = .next (s.fault .illopd none s.me.bs.slot true)) ∧
    (∀ w t, s.freeze [w] s.me.bs.slot = t →
      t.me.time = s.me.time + s.me.cl ∧ t.me.ccyc = s.me.ccyc + 1 ∧ t.me.frz = s.me.frz + 1 ∧
      t.me.rf = s.me.rf ∧ t.me.ports = s.me.ports ∧ t.me.lat = s.me.lat ∧ t.mem = s.mem ∧ t.me.spad = s.me.spad)

/-- The frame of every trigger whose answer is its result in flight, of whatever unit, class, value, flags and
latency (the integer, vector and other results of the statements below say which): all of the state but the
executing core, the list of steps due and the next identifier is unchanged, and of that core every register, latch,
port, flag, loop entry, base, queue, engine, scratchpad byte and control register; every byte of memory reads as
before. The energy counter may add the slot's class weight (R61, R65, R90, R109, R132), where it does not saturate. -/
def Obligations.ResultTriggersChangeNothingElse : Prop :=
  ∀ (s t : State) (i : Instr) (u : FUnit) (cls : ResClass) (d : Option RegName) (r : V512) (fl : Flags) (lat : Nat)
    (wake : Option Instr), s.me.bs.deferred = [] →
    (s.me.pctx.satf = true ∨
      s.me.pctx.ec.toNat + s.weight ⟨slotClass i s.me % 16, Nat.mod_lt _ (by decide)⟩ < 2 ^ 56) →
    exec i s = .next (delivers (s.chargeSlot i) u cls d r fl lat wake).flushDeferred →
    exec i s = .next t →
    (∀ a n, t.mem.read a n = s.mem.read a n) ∧
    (∀ c, c ≠ s.cur → t.core c = s.core c) ∧
    (∃ g, t.me = { s.me with fl := s.me.fl ++ [g], pc' := t.me.pc' } ∧ g.value = r ∧ g.dest = d) ∧
    (∀ x, t.me.pctxOf x = { s.me.pctxOf x with ec := (t.me.pctxOf x).ec } ∧
      (x ≠ s.me.ctx → t.me.pctxOf x = s.me.pctxOf x)) ∧
    t = { s with cores := t.cores, events := t.events, nextId := s.nextId + 1 }

/-! ## The integer units -/

/-- Sums, differences, products, bitwise operations, shifts and rotates by the count modulo the width (R106, R107,
R109). -/
def Obligations.IntegerArithmeticResults : Prop :=
  ∀ (u : IntUnit) (f : Wd) (m : Mv),
    IntGives (.add u f m) u m.k 1 (fun x v => onWd f (lo64 x + lo64 v) (lo32 x + lo32 v)) ∧
    IntGives (.sub u f m) u m.k 1 (fun x v => onWd f (lo64 x - lo64 v) (lo32 x - lo32 v)) ∧
    IntGives (.mul u f m) u m.k 3 (fun x v => onWd f (lo64 x * lo64 v) (lo32 x * lo32 v)) ∧
    IntGives (.and u f m) u m.k 1 (fun x v => onWd f (lo64 x &&& lo64 v) (lo32 x &&& lo32 v)) ∧
    IntGives (.or u f m) u m.k 1 (fun x v => onWd f (lo64 x ||| lo64 v) (lo32 x ||| lo32 v)) ∧
    IntGives (.xor u f m) u m.k 1 (fun x v => onWd f (lo64 x ^^^ lo64 v) (lo32 x ^^^ lo32 v)) ∧
    IntGives (.andn u f m) u m.k 1 (fun x v => onWd f (lo64 x &&& ~~~lo64 v) (lo32 x &&& ~~~lo32 v)) ∧
    IntGivesUnary (.pass u f m) u m.k (fun v => onWd f (lo64 v) (lo32 v)) ∧
    IntGives (.shl u f m) u m.k 1 (fun x v =>
      onWd f (lo64 x <<< ((lo64 v).toNat % 64)) (lo32 x <<< ((lo32 v).toNat % 32))) ∧
    IntGives (.shr u f m) u m.k 1 (fun x v =>
      onWd f (lo64 x >>> ((lo64 v).toNat % 64)) (lo32 x >>> ((lo32 v).toNat % 32))) ∧
    IntGives (.sar u f m) u m.k 1 (fun x v =>
      onWd f ((lo64 x).sshiftRight ((lo64 v).toNat % 64)) ((lo32 x).sshiftRight ((lo32 v).toNat % 32))) ∧
    IntGives (.rol u f m) u m.k 1 (fun x v =>
      onWd f ((lo64 x).rotateLeft ((lo64 v).toNat % 64)) ((lo32 x).rotateLeft ((lo32 v).toNat % 32)))

/-- High halves of products, saturating sums and differences, comparisons; quotients and remainders, zero divisors
and the most negative dividend among them (R107, R109). -/
def Obligations.IntegerSignedResults : Prop :=
  (∀ (u : IntUnit) (m : Mv),
    (∀ f : Sw, IntGives (.mulh u f m) u m.k 3 (fun x v =>
      onSw f (BitVec.ofInt 64 ((lo64 x).toInt * (lo64 v).toInt / 2 ^ 64))
        (BitVec.ofInt 32 ((lo32 x).toInt * (lo32 v).toInt / 2 ^ 32))
        (BitVec.ofNat 64 ((lo64 x).toNat * (lo64 v).toNat / 2 ^ 64))
        (BitVec.ofNat 32 ((lo32 x).toNat * (lo32 v).toNat / 2 ^ 32)))) ∧
    (∀ f : Sw, IntGives (.adds u f m) u m.k 1 (fun x v =>
      onSw f (satTo 64 (-2 ^ 63) (2 ^ 63 - 1) ((lo64 x).toInt + (lo64 v).toInt))
        (satTo 32 (-2 ^ 31) (2 ^ 31 - 1) ((lo32 x).toInt + (lo32 v).toInt))
        (satTo 64 0 (2 ^ 64 - 1) (((lo64 x).toNat : Int) + (lo64 v).toNat))
        (satTo 32 0 (2 ^ 32 - 1) (((lo32 x).toNat : Int) + (lo32 v).toNat)))) ∧
    (∀ f : Sw, IntGives (.subs u f m) u m.k 1 (fun x v =>
      onSw f (satTo 64 (-2 ^ 63) (2 ^ 63 - 1) ((lo64 x).toInt - (lo64 v).toInt))
        (satTo 32 (-2 ^ 31) (2 ^ 31 - 1) ((lo32 x).toInt - (lo32 v).toInt))
        (satTo 64 0 (2 ^ 64 - 1) (((lo64 x).toNat : Int) - (lo64 v).toNat))
        (satTo 32 0 (2 ^ 32 - 1) (((lo32 x).toNat : Int) - (lo32 v).toNat)))) ∧
    (∀ f : Sw, IntGives (.min u f m) u m.k 1 (fun x v =>
      onSw f (if (lo64 x).sle (lo64 v) then lo64 x else lo64 v) (if (lo32 x).sle (lo32 v) then lo32 x else lo32 v)
        (if (lo64 x).ule (lo64 v) then lo64 x else lo64 v) (if (lo32 x).ule (lo32 v) then lo32 x else lo32 v))) ∧
    (∀ f : Sw, IntGives (.max u f m) u m.k 1 (fun x v =>
      onSw f (if (lo64 x).sle (lo64 v) then lo64 v else lo64 x) (if (lo32 x).sle (lo32 v) then lo32 v else lo32 x)
        (if (lo64 x).ule (lo64 v) then lo64 v else lo64 x) (if (lo32 x).ule (lo32 v) then lo32 v else lo32 x))) ∧
    (∀ c : Cc, IntGives (.cmp u c m) u m.k 1 (fun x v => if holds c (lo64 x) (lo64 v) then 1 else 0))) ∧
  ∀ (u : IntUnit) (f : Sw) (m : Mv),
    DivGives (.div u f m) u f m.k (fun x v =>
      onSw f (quot true (lo64 x) (lo64 v)) (quot true (lo32 x) (lo32 v)) (quot false (lo64 x) (lo64 v))
        (quot false (lo32 x) (lo32 v))) ∧
    DivGives (.rem u f m) u f m.k (fun x v =>
      onSw f (remd true (lo64 x) (lo64 v)) (remd true (lo32 x) (lo32 v)) (remd false (lo64 x) (lo64 v))
        (remd false (lo32 x) (lo32 v)))

/-- Counts of bits, byte reversal and the bit field of R108. -/
def Obligations.IntegerBitCountResults : Prop :=
  ∀ (u : IntUnit) (m : Mv),
    (∀ f : Wd, IntGivesUnary (.clz u f m) u m.k (fun v =>
      onWd f (BitVec.ofNat 64 (64 - ((lo64 v).toNat.log2 + if lo64 v = 0 then 0 else 1)))
        (BitVec.ofNat 32 (32 - ((lo32 v).toNat.log2 + if lo32 v = 0 then 0 else 1))))) ∧
    (∀ (f : Wd) (s : State) (v : V512) (d : Option RegName), Ready s (.ctz u f m) v →
      destOf s .s m.k (intTo u) = some d →
      ∃ n, exec (.ctz u f m) s = .next (delivers (s.chargeSlot (.ctz u f m)) (intUnit u) .s d (BitVec.ofNat 512 n) 0 1
          (some (.intResultDelivery s.cur u))).flushDeferred ∧
        n ≤ wdWidth f ∧ (∀ j, j < n → v.getLsbD j = false) ∧ (n < wdWidth f → v.getLsbD n = true)) ∧
    (∀ f : Wd, IntGivesUnary (.popc u f m) u m.k (fun v =>
      BitVec.ofNat 64 ((List.range (wdWidth f)).countP fun j => v.getLsbD j))) ∧
    (∀ f : Wd, IntGivesUnary (.bswap u f m) u m.k (fun v =>
      onWd f (BitVec.ofNat 64 (byteRev 8 (lo64 v).toNat)) (BitVec.ofNat 32 (byteRev 4 (lo32 v).toNat)))) ∧
    (∀ f : Sw, IntGives (.ext u f m) u m.k 1 (fun x v =>
      onSw f (BitVec.ofInt 64 (fieldOf true 64 (lo64 x).toNat (lo64 v).toNat))
        (BitVec.ofInt 32 (fieldOf true 32 (lo32 x).toNat (lo64 v).toNat))
        (BitVec.ofInt 64 (fieldOf false 64 (lo64 x).toNat (lo64 v).toNat))
        (BitVec.ofInt 32 (fieldOf false 32 (lo32 x).toNat (lo64 v).toNat))))

/-! ## The branch and loop unit -/

/-- What values name a bundle, in either form (R94, R110). JMP, BZ, BNZ and CALL: the target decides the next bundle,
under the condition on br.x; CALL delivers the bundle that would follow after one cycle; a value that is no target
raises ILLOPD (R110 to R112). -/
def Obligations.BranchesDecideTheNextBundle : Prop :=
  (∀ (k : Core) (v : Nat), v < 2 ^ 64 →
     (branchTarget k .abs v =
       if v < 2 ^ 63 ∧ v % 32 = 0 ∧ v % 2 ^ 56 ≠ 0
       then some ⟨BitVec.ofNat 56 (v % 2 ^ 56), BitVec.ofNat 7 (v / 2 ^ 56)⟩ else none) ∧
     (k.bcnt ≤ 128 → branchTarget k .seg v = if v < k.bcnt then some ⟨k.pc.seg, BitVec.ofNat 7 v⟩ else none)) ∧
  (∀ (s : State) (f : TForm) (m : Mv) (v : V512) (d : Target), Ready s (.jmp f m) v →
    branchTarget s.me f (sval v) = some d →
    exec (.jmp f m) s = .next (((s.chargeSlot (.jmp f m)).onMe fun k =>
      { k with bs := { k.bs with branch := some d } }).flushDeferred)) ∧
  (∀ (s : State) (f : TForm) (m : Mv) (v x : V512) (d : Target), Ready s (.bz f m) v → s.me.port .brX = some x →
    branchTarget s.me f (sval v) = some d →
    exec (.bz f m) s = .next (((s.chargeSlot (.bz f m)).onMe fun k =>
      { k with bs := { k.bs with branch := if lo64 x = 0 then some d else k.bs.branch } }).flushDeferred)) ∧
  (∀ (s : State) (f : TForm) (m : Mv) (v x : V512) (d : Target), Ready s (.bnz f m) v → s.me.port .brX = some x →
    branchTarget s.me f (sval v) = some d →
    exec (.bnz f m) s = .next (((s.chargeSlot (.bnz f m)).onMe fun k =>
      { k with bs := { k.bs with branch := if lo64 x = 0 then k.bs.branch else some d } }).flushDeferred)) ∧
  (∀ (s : State) (f : TForm) (m : Mv) (v : V512) (d : Target) (r : Option RegName), Ready s (.call f m) v →
    branchTarget s.me f (sval v) = some d → destOf s .s m.k .brTo = some r →
    exec (.call f m) s = .next (((delivers (s.chargeSlot (.call f m)) .br .s r
        (wide (if s.me.following.seg = 0 then 0 else s.me.following.abs)) 0 1 none).onMe fun k =>
      { k with bs := { k.bs with branch := some d } }).flushDeferred)) ∧
  (∀ (s : State) (f : TForm) (m : Mv) (v : V512), Ready s (.jmp f m) v → branchTarget s.me f (sval v) = none →
    exec (.jmp f m) s = .next (s.fault .illopd none s.me.bs.slot true))

/-- LOOP pushes an entry, or skips its body as a taken branch when the count is 0; LPOP drops the innermost
entry, LSET writes its count, LCNT reads one (R113, R114, R116). -/
def Obligations.LoopStackOperations : Prop :=
  (∀ (s : State) (m : Mv) (v x : V512), Ready s (.loop m) v → s.me.port .brX = some x →
    loopOperandsOk s.me (sval v) (sval x) = true → s.me.loops.length < 4 ∨ sval v = 0 →
    exec (.loop m) s = .next (((s.chargeSlot (.loop m)).onMe fun k =>
      if sval v = 0 then { k with bs := { k.bs with branch := some (k.afterIndex (sval x)) } }
      else { k with loops := ⟨BitVec.ofNat 32 (sval v), k.pc.bix + 1, BitVec.ofNat 7 (sval x), k.pc.seg⟩ :: k.loops
        }).flushDeferred)) ∧
  (∀ (s : State) (m : Mv) (v : V512) (e : LoopEntry) (r : List LoopEntry), Ready s (.lpop m) v →
    s.me.ui.active = false → s.me.loops = e :: r →
    exec (.lpop m) s = .next (((s.chargeSlot (.lpop m)).onMe fun k => { k with loops := r }).flushDeferred)) ∧
  (∀ (s : State) (m : Mv) (v : V512) (e : LoopEntry) (r : List LoopEntry), Ready s (.lset m) v →
    s.me.ui.active = false → sval v < 2 ^ 32 → s.me.loops = e :: r →
    exec (.lset m) s = .next (((s.chargeSlot (.lset m)).onMe fun k =>
      { k with loops := { e with count := BitVec.ofNat 32 (sval v) } :: r }).flushDeferred)) ∧
  (∀ (s : State) (m : Mv) (v : V512) (e : LoopEntry) (d : Option RegName), Ready s (.lcnt m) v →
    s.me.loops[sval v % 4]? = some e → destOf s .s m.k .brTo = some d →
    exec (.lcnt m) s = .next (delivers (s.chargeSlot (.lcnt m)) .br .s d (e.count.setWidth 512) 0 1 none).flushDeferred)

/-! ## Memory, loads and stores -/

/-- Bytes written read back, and every other byte reads as before. The canonical form is kept, so that equal contents are
equal memories: that form is the model's own, a design choice (log 2), and no rule of the spec. -/
def Obligations.MemoryReadsWhatWasWritten : Prop :=
  ∀ (m : Memory) (a n v : Nat),
    (m.write a n v).read a n = v % 256 ^ n ∧
    (∀ x, x < a ∨ a + n ≤ x → (m.write a n v).byte x = m.byte x) ∧
    (m.wf = true → (m.write a n v).wf = true) ∧
    (∀ m' : Memory, m.wf = true → m'.wf = true → (∀ x, m.byte x = m'.byte x) → m = m')

/-- R160: the checks of a handle's use, in their order. -/
def Obligations.HandleChecksInOrder : Prop :=
  ∀ (h : Handle) (x : CtxId) (off n : Nat), 0 < n →
    ((h.v = false ∨ h.ctx ≠ x.toNat) → ∀ p, checkHandle h x off n p = some .hstale) ∧
    (h.v = true → h.ctx = x.toNat →
      (off % n ≠ 0 → ∀ p, checkHandle h x off n p = some .align) ∧
      (off % n = 0 → h.size < off + n → ∀ p, checkHandle h x off n p = some .hbound) ∧
      (off % n = 0 → off + n ≤ h.size →
        checkHandle h x off n .r = (if h.pr then none else some .priv) ∧
        checkHandle h x off n .w = (if h.pw then none else some .priv) ∧
        checkHandle h x off n .a = (if h.pa then none else some .priv)))

/-- A use of the memory handle in ls.h that passes its checks. -/
def Sys2Proof.Claims.ThroughMemory (s : State) (hv : V512) (off n : Nat) (p : Perm) : Prop :=
  s.me.port .lsH = some hv ∧ checkHandle (BitVec.ofNat 128 hv.toNat) s.me.ctx off n p = none ∧
  Handle.isSpad (BitVec.ofNat 128 hv.toNat) = false ∧ slotsFull s 1 = false

/-- The same of the scratchpad handle. -/
def Sys2Proof.Claims.ThroughScratchpad (s : State) (hv : V512) (off n : Nat) (p : Perm) : Prop :=
  s.me.port .lsH = some hv ∧ checkHandle (BitVec.ofNat 128 hv.toNat) s.me.ctx off n p = none ∧
  Handle.isSpad (BitVec.ofNat 128 hv.toNat) = true

/-- A request made by a charged slot whose result comes with its reply. -/
def Sys2Proof.Claims.asks (c : State) (cls : ResClass) (d : Option RegName) (kind : ReqKind) (hv : V512)
    (off n data : Nat) : State :=
  let h : Handle := BitVec.ofNat 128 hv.toNat
  (c.awaitReply cls d .ls (h.va off)).2.makeReq kind (h.pbase + off) n data c.nextId (h.va off) h.psz

/-- LD and ST through a memory handle make one request of the access's size at PBASE plus the offset; through
the scratchpad handle they read and write the scratchpad, the load's value due after 6 cycles (R153, R162). -/
def Obligations.LoadsAndStores : Prop :=
  (∀ (s : State) (z : LdSz) (m : Mv) (v hv : V512) (d : Option RegName), Ready s (.ld z m) v →
    ThroughMemory s hv (sval v) (ldBytes z) .r → destOf s .s m.k .lsTo = some d →
    exec (.ld z m) s = .next (asks (s.chargeSlot (.ld z m)) .s d (.load (ldSigned z)) hv (sval v) (ldBytes z) 0
      ).flushDeferred) ∧
  (∀ (s : State) (z : LdSz) (m : Mv) (v hv : V512) (d : Option RegName), Ready s (.ld z m) v →
    ThroughScratchpad s hv (sval v) (ldBytes z) .r → destOf s .s m.k .lsTo = some d → s.me.bs.deferred = [] →
    s.me.fl.all (fun f => f.id != s.nextId) = true →
    ∃ t f, exec (.ld z m) s = .next t ∧ t.me.fl = s.me.fl ++ [f] ∧ f.dest = d ∧ f.unit = .ls ∧
      lo64 f.value = BitVec.ofNat 64 (let x := s.me.spad.read (sval v) (ldBytes z)
        if ldSigned z then wrap (sx x (8 * ldBytes z)) 64 else x) ∧
      f.due = some (s.me.time + 6 * s.me.cl) ∧
      t.me.rf = s.me.rf ∧ t.me.spad = s.me.spad ∧ t.mem = (s.chargeSlot (.ld z m)).mem ∧ t.reqs = s.reqs) ∧
  (∀ (s : State) (z : Sz) (m : Mv) (v x hv : V512), Ready s (.st z m) v → s.me.port .lsX = some x →
    ThroughMemory s hv (sval x) (szBytes z) .w →
    let h : Handle := BitVec.ofNat 128 hv.toNat
    exec (.st z m) s = .next ((s.chargeSlot (.st z m)).makeReq .store (h.pbase + sval x) (szBytes z)
      (sval v) 0 (h.va (sval x)) h.psz).flushDeferred) ∧
  (∀ (s : State) (z : Sz) (m : Mv) (v x hv : V512), Ready s (.st z m) v → s.me.port .lsX = some x →
    ThroughScratchpad s hv (sval x) (szBytes z) .w → s.me.bs.deferred = [] →
    ∃ t, exec (.st z m) s = .next t ∧ t.me.spad = s.me.spad.write (sval x) (szBytes z) (sval v) ∧
      t.me.rf = s.me.rf ∧ t.mem = (s.chargeSlot (.st z m)).mem ∧ t.reqs = s.reqs)

/-- LDA, STRL and FENCE: the ordering triggers make their request or, for a quiet fence, act at once
(R317 to R323). -/
def Obligations.OrderingTriggers : Prop :=
  (∀ (s : State) (z : Sz) (sc : Sc) (m : Mv) (v hv : V512) (d : Option RegName), Ready s (.lda z sc m) v →
    s.me.pendingReport false = none → ThroughMemory s hv (sval v) (szBytes z) .r → destOf s .s m.k .lsTo = some d →
    exec (.lda z sc m) s = .next (asks (s.chargeSlot (.lda z sc m)) .s d (.lda sc) hv (sval v) (szBytes z) 0
      ).flushDeferred) ∧
  (∀ (s : State) (z : Sz) (sc : Sc) (m : Mv) (v hv : V512) (d : Option RegName), Ready s (.lda z sc m) v →
    s.me.pendingReport false = none → ThroughScratchpad s hv (sval v) (szBytes z) .r → destOf s .s m.k .lsTo = some d →
    let a := (s.chargeSlot (.lda z sc m)).awaitReply .s d .ls (Handle.va (BitVec.ofNat 128 hv.toNat) (sval v))
    exec (.lda z sc m) s = .next (a.2.spadOrder true (sval v) (szBytes z) 0 a.1).flushDeferred) ∧
  (∀ (s : State) (z : Sz) (sc : Sc) (m : Mv) (v x hv : V512), Ready s (.strl z sc m) v →
    s.me.pendingReport true = none → s.me.port .lsX = some x → ThroughScratchpad s hv (sval x) (szBytes z) .w →
    ∃ t, exec (.strl z sc m) s = .next t ∧
      t = ((s.chargeSlot (.strl z sc m)).spadOrder false (sval x) (szBytes z) (sval v) 0).flushDeferred ∧
      (s.reqsOf s.cur = [] → s.me.enginesQuiet = true → s.me.bs.deferred = [] →
        t.me.spad = s.me.spad.write (sval x) (szBytes z) (sval v))) ∧
  (∀ (s : State) (z : Sz) (sc : Sc) (m : Mv) (v x hv : V512), Ready s (.strl z sc m) v →
    s.me.pendingReport true = none → s.me.port .lsX = some x → ThroughMemory s hv (sval x) (szBytes z) .w →
    (sc = .sys → (s.chargeSlot (.strl z sc m)).releaseRace false
      (Handle.pbase (BitVec.ofNat 128 hv.toNat) + sval x) (szBytes z) = none) →
    let h : Handle := BitVec.ofNat 128 hv.toNat
    exec (.strl z sc m) s = .next ((s.chargeSlot (.strl z sc m)).makeReq (.strl sc) (h.pbase + sval x) (szBytes z)
      (sval v) 0 (h.va (sval x)) h.psz).flushDeferred) ∧
  (∀ (s : State) (f : Fk) (m : Mv) (v : V512), Ready s (.fence f .core m) v →
    s.me.pendingReport (f != .acq) = none → s.reqsOf s.cur = [] → s.me.enginesQuiet = true →
    exec (.fence f .core m) s =
      let c := s.chargeSlot (.fence f .core m)
      let r := if f = .acq then c else c.armRelease .core
      .next (if f = .rel then r else r.fenceAcquire .core).flushDeferred) ∧
  (∀ (s : State) (f : Fk) (sc : Sc) (m : Mv) (v : V512), Ready s (.fence f sc m) v → f ≠ .rel → sc ≠ .core →
    s.me.pendingReport (f != .acq) = none → s.reqsOf s.cur = [] → s.me.enginesQuiet = true →
    (s.chargeSlot (.fence f sc m)).carriedRace = none →
    ∃ t, exec (.fence f sc m) s = .next t ∧ t.me.l1.all (fun e => e.dirty != 0) = true) ∧
  (∀ (s : State) (sc : Sc) (m : Mv) (v : V512), Ready s (.fence .rel sc m) v → sc ≠ .core →
    s.me.pendingReport true = none → s.reqsOf s.cur = [] → s.me.enginesQuiet = true →
    (s.chargeSlot (.fence .rel sc m)).carriedRace = none →
    exec (.fence .rel sc m) s =
      .next (((s.chargeSlot (.fence .rel sc m)).writeBackAll s.cur true).1.armRelease sc).flushDeferred)

/-- A slice operation asked for: the core's own dirty copies of its lines written back first (R270). -/
def Sys2Proof.Claims.asksSlice (c : State) (cls : ResClass) (d : Option RegName) (kind : ReqKind) (hv : V512)
    (off n data : Nat) (lines : List Nat) : State :=
  let h : Handle := BitVec.ofNat 128 hv.toNat
  (c.awaitReply cls d .ls (h.va off)).2.sliceReq kind (h.pbase + off) n data c.nextId (h.va off) h.psz lines

/-- A core with nothing to report and no race to carry: what an ordered slice operation needs (R319, R327). -/
def Sys2Proof.Claims.OrderFree (s c : State) (ord : Nat) : Prop :=
  (ord ≠ 0 → s.me.pendingReport (decide (2 ≤ ord)) = none) ∧ slotsFull c 1 = false

/-- ATOM, CLRD and CMS ask their slice for the operation, with the fields of the memory-order word; LOCK and
UNLOCK likewise (R96, R169, R272 to R274). -/
def Obligations.SliceOperationsAreAsked : Prop :=
  (∀ (s : State) (op : Ao) (m : Mv) (v hv x mo y : V512) (d : Option RegName), Ready s (.atom op m) v →
    s.me.port .lsH = some hv → s.me.port .lsX = some x → s.me.port .lsMo = some mo →
    (s.me.port .lsY = some y ∨ (op ≠ .acas ∧ s.me.port .lsY = none ∧ y = 0)) →
    sval mo < 64 → (bit (sval mo) 5 = true → op = .amin ∨ op = .amax) →
    let n := if bit (sval mo) 4 then 8 else 4
    let c := s.chargeSlot (.atom op m)
    checkHandle (BitVec.ofNat 128 hv.toNat) s.me.ctx (sval x) n .a = none →
    destOf s .s m.k .lsTo = some d → OrderFree s c (moOrd (sval mo)) →
    (2 ≤ moOrd (sval mo) → moScope (sval mo) = .sys →
      c.releaseRace true (Handle.pbase (BitVec.ofNat 128 hv.toNat) + sval x) n = none) →
    exec (.atom op m) s = .next (asksSlice c .s d (.atom op (zx (sval y) (8 * n)) (bit (sval mo) 5)
      (moOrd (sval mo)) (moScope (sval mo))) hv (sval x) n (zx (sval v) (8 * n))
      [lineOf (Handle.pbase (BitVec.ofNat 128 hv.toNat) + sval x)]).flushDeferred) ∧
  (∀ (s : State) (m : Mv) (v hv x : V512) (d : Option RegName), Ready s (.clrd m) v →
    s.me.port .lsH = some hv → s.me.port .lsX = some x → sval x % 128 = 0 → sval x + 128 ≤ 0x80000 →
    checkHandle (BitVec.ofNat 128 hv.toNat) s.me.ctx (sval v) 1 .a = none → slotsFull s 1 = false →
    destOf s .s m.k .lsTo = some d →
    exec (.clrd m) s = .next (asksSlice (s.chargeSlot (.clrd m)) .s d (.clrd (sval x)) hv (sval v) 1 0
      [lineOf (Handle.pbase (BitVec.ofNat 128 hv.toNat) + sval v)]).flushDeferred) ∧
  (∀ (s : State) (m : Mv) (v hv x y mo : V512) (d : Option RegName), Ready s (.cms m) v →
    s.me.port .lsH = some hv → s.me.port .lsX = some x → s.me.port .lsY = some y → s.me.port .lsMo = some mo →
    let h : Handle := BitVec.ofNat 128 hv.toNat
    let off := sval v / 512 * 512
    let c := s.chargeSlot (.cms m)
    bits (sval v) 3 0 ≠ 0 → bit (sval v) 8 = false → sval mo < 16 → h.v = true → h.ctx = s.me.ctx.toNat →
    off + 512 ≤ h.size → h.pa = true → sval x % 128 = 0 → sval x + 512 ≤ 0x80000 →
    destOf s .s m.k .lsTo = some d → OrderFree s c (moOrd (sval mo)) →
    (2 ≤ moOrd (sval mo) → moScope (sval mo) = .sys → c.carriedRace = none) →
    let l := lineOf (h.pbase + off)
    let a := asksSlice c .s d (.cms (bits (sval v) 3 0) (bits (sval v) 7 4) (sval y) (moOrd (sval mo))
      (moScope (sval mo))) hv off 512 0 [l, l + 1, l + 2, l + 3]
    exec (.cms m) s = .next ((List.range 8).foldl (fun t i => if bit (bits (sval v) 3 0) (i / 2)
      then t.lsSlot3 (sval x + 64 * i) else t) (a.defer (.images (a.nextId - 1) (sval x)))).flushDeferred) ∧
  (∀ (s : State) (m : Mv) (v hv : V512) (d : Option RegName), Ready s (.lock m) v → s.me.port .lsH = some hv →
    checkHandle (BitVec.ofNat 128 hv.toNat) s.me.ctx (sval v) 1 .a = none → slotsFull s 1 = false →
    destOf s .s m.k .lsTo = some d →
    exec (.lock m) s = .next (asksSlice (s.chargeSlot (.lock m)) .s d .lock hv (sval v) 1 0
      [lineOf (Handle.pbase (BitVec.ofNat 128 hv.toNat) + sval v)]).flushDeferred) ∧
  (∀ (s : State) (m : Mv) (v hv : V512), Ready s (.unlock m) v → s.me.port .lsH = some hv →
    checkHandle (BitVec.ofNat 128 hv.toNat) s.me.ctx (sval v) 1 .a = none → slotsFull s 1 = false →
    exec (.unlock m) s = .next (asksSlice (s.chargeSlot (.unlock m)) .latch none .unlock hv (sval v) 1 0
      [lineOf (Handle.pbase (BitVec.ofNat 128 hv.toNat) + sval v)]).flushDeferred)

/-- TRN gives the scratchpad handle in the window, the handle of the applying mapping elsewhere, and LEASE
where none applies; HINFO reads its fields; PF of a good handle asks for the line; WB writes the line back
and INV also removes it (R157, R158, R161, R163). How long TRN takes on a miss is open (the model's choice, log 3). -/
def Obligations.TranslationAndCacheControl : Prop :=
  (∀ (s : State) (m : Mv) (v : V512) (d : Option RegName) (h : Handle), Ready s (.trn m) v →
    let c := s.chargeSlot (.trn m)
    c.trnHandle (sval v) = .inl h → destOf s .h false .lsTo = some d →
    (c.leaseCached (sval v) = true →
      exec (.trn m) s = .next (delivers c .ls .h d (h.setWidth 512) 0 12 none).flushDeferred) ∧
    (c.leaseCached (sval v) = false →
      let p := c.takeDelay Config.guideSlice
      exec (.trn m) s = .next (delivers p.2 .ls .h d (h.setWidth 512) 0 (12 + ceilDiv p.1 s.me.cl) none).flushDeferred)) ∧
  (∀ (s : State) (a : Nat), 2 ^ 56 - 2 ^ 19 ≤ a → a < 2 ^ 56 → ∃ h, s.trnHandle a = .inl h ∧ h.v = true ∧
    h.psz = 3 ∧ h.pr = true ∧ h.pw = true ∧ h.pa = false ∧ h.pbase = 0 ∧ h.vbase = 2 ^ 56 - 2 ^ 19) ∧
  (∀ (s : State) (m : Mv) (v : V512), Ready s (.trn m) v → sval v < 2 ^ 56 - 2 ^ 19 →
    (s.chargeSlot (.trn m)).translateHere (sval v) = none →
    exec (.trn m) s = .next (s.fault .lease none s.me.bs.slot true)) ∧
  (∀ (s : State) (f : HField) (m : Mv) (v : V512) (d : Option RegName), Ready s (.hinfo f m) v →
    destOf s .s m.k .lsTo = some d →
    let h : Handle := BitVec.ofNat 128 v.toNat
    exec (.hinfo f m) s = .next (delivers (s.chargeSlot (.hinfo f m)) .ls .s d (BitVec.ofNat 512 (match f with
      | .base => h.vbase
      | .size => h.size
      | .perm => (if h.pr then 1 else 0) + (if h.pw then 2 else 0) + (if h.pa then 4 else 0)
      | .valid => if h.v then 1 else 0)) 0 1 none).flushDeferred) ∧
  (∀ (s : State) (l : Bool) (m : Mv) (v hv : V512), Ready s (.pf l m) v → s.me.port .lsH = some hv →
    slotsFull s 1 = false →
    let h : Handle := BitVec.ofNat 128 hv.toNat
    let c := s.chargeSlot (.pf l m)
    exec (.pf l m) s = .next (if checkHandle h s.me.ctx (sval v) 1 .r = none ∧ h.isSpad = false
      then c.makeReq (.prefetch l) (h.pbase + sval v) 1 0 0 (h.va (sval v)) h.psz else c).flushDeferred) ∧
  (∀ (s : State) (l : Bool) (m : Mv) (v : V512), Ready s (.pf l m) v → s.me.port .lsH = none →
    exec (.pf l m) s = .next (s.chargeSlot (.pf l m)).flushDeferred) ∧
  (∀ (s : State) (m : Mv) (v hv : V512), s.me.port .lsH = some hv →
    let h : Handle := BitVec.ofNat 128 hv.toNat
    let line := lineOf (h.pbase + sval v)
    checkHandle h s.me.ctx (sval v) 1 .none = none →
    (h.isSpad = false →
      (∀ q, q ∈ s.reqsOf s.cur → line < lineOf q.pa ∨ lineOf (q.pa + q.n - 1) < line) ∧
      (s.dirtyHere line = true → slotsFull s 1 = false)) →
    (Ready s (.wb m) v → exec (.wb m) s = .next (if h.isSpad then s.chargeSlot (.wb m)
      else (s.chargeSlot (.wb m)).flushLine s.cur line).flushDeferred) ∧
    (Ready s (.inv m) v → exec (.inv m) s = .next (if h.isSpad then s.chargeSlot (.inv m)
      else (s.chargeSlot (.inv m)).purgeLine s.cur line).flushDeferred ∧
      ((s.chargeSlot (.inv m)).purgeLine s.cur line).me.l1Find line = none))

/-- A line resident in its home slice, in no L1 of the core, with no marker, no poison and no access tracked. -/
def Sys2Proof.Claims.PlainLine (s : State) (c : CoreId) (line : Nat) : Prop :=
  (s.core c).l1Find line = none ∧ (∃ l, s.sline line = some l ∧ l.marker = none) ∧
  Tbl.get false s.poison line = false ∧ ∀ g, g / 8 = line → s.granule g = Granule.reset

/-- What an atomic writes from the old value, in w bits; and an atomic on a plain line, with no order asked, reads
the old value, writes the new one unless it is an acas whose comparison fails, and touches no other byte (R272). -/
def Obligations.AtomicReadsThenWritesItsLine : Prop :=
  (∀ (w : Nat) (uns : Bool) (old x cmp : Nat), w = 32 ∨ w = 64 → old < 2 ^ w → x < 2 ^ w → cmp < 2 ^ w →
    atomNew .aadd uns w old x cmp = (BitVec.ofNat w old + BitVec.ofNat w x).toNat ∧
    atomNew .aand uns w old x cmp = (BitVec.ofNat w old &&& BitVec.ofNat w x).toNat ∧
    atomNew .aor uns w old x cmp = (BitVec.ofNat w old ||| BitVec.ofNat w x).toNat ∧
    atomNew .axor uns w old x cmp = (BitVec.ofNat w old ^^^ BitVec.ofNat w x).toNat ∧
    atomNew .amin true w old x cmp = Nat.min old x ∧ atomNew .amax true w old x cmp = Nat.max old x ∧
    atomNew .amin false w old x cmp = (if (BitVec.ofNat w old).sle (BitVec.ofNat w x) then old else x) ∧
    atomNew .amax false w old x cmp = (if (BitVec.ofNat w x).sle (BitVec.ofNat w old) then old else x) ∧
    atomNew .axch uns w old x cmp = x ∧
    atomNew .acas uns w old x cmp = (if old = cmp then x else old)) ∧
  (∀ (s : State) (r : Req) (op : Ao) (cmp : Nat) (uns : Bool), r.kind = .atom op cmp uns 0 .core →
    s.req r.id = some r → r.bad = none → PlainLine s r.core (lineOf r.pa) →
    let old := s.mem.read r.pa r.n
    ∃ t q, s.performOp r = t ∧ t.req r.id = some q ∧ q.served = true ∧ q.value = old ∧ q.bad = none ∧
      t.mem = if op = .acas ∧ old ≠ cmp then s.mem
        else s.mem.write r.pa r.n (atomNew op uns (8 * r.n) old r.data cmp))

/-- A request is served when it reaches its slice, and no request is served twice (R162, R271, R317); the home cluster is
awake, and no older request of the core to its lines is still on its way (R162, R318). A load of a plain line by a core whose L1 has room fills the line and replies
with the bytes of memory, which
keeps every byte; a store of a plain line puts its bytes into the core's line, every other byte of which is that of
memory, and memory keeps every byte until the line is written back (R154, R162, R268, R320). -/
def Obligations.RequestsAreServedOnce : Prop :=
  (∀ (s : State) (id : Nat) (r : Req), s.req id = some r → r.served = false → r.held = false →
    s.wakeHomes [r.pa] = none →
    (∀ q ∈ s.reqsOf r.core, q.id < r.id → q.shareLine r = true → q.held = true ∨ q.served = true ∨ q.kind.takesSlot = false) →
    (r.kind.sliceOp = true → (s.core r.core).imagesDeferred id = false → exec (.sliceOpPerform id) s = .next (s.performOp r)) ∧
    (r.kind.sliceOp = false → exec (.sliceAccessServe id) s = .next (s.serveAccess r))) ∧
  (∀ (s : State) (id : Nat), (s.req id = none ∨ ∃ r, s.req id = some r ∧ r.held = false ∧ r.served = true) →
    exec (.sliceOpPerform id) s = .next s ∧ exec (.sliceAccessServe id) s = .next s) ∧
  (∀ (s : State) (r : Req) (sext : Bool), r.kind = .load sext → s.req r.id = some r →
     PlainLine s r.core (lineOf r.pa) → (s.core r.core).l1Victim (lineOf r.pa) = none →
     r.pa % 128 + r.n ≤ 128 → 0 < r.n →
     ∃ t q, s.serveAccess r = t ∧ t.req r.id = some q ∧ q.served = true ∧ q.value = s.mem.read r.pa r.n ∧
       q.bad = none ∧ t.mem = s.mem ∧ ((t.core r.core).l1Find (lineOf r.pa)).isSome = true) ∧
  (∀ (s : State) (r : Req), r.kind = .store → PlainLine s r.core (lineOf r.pa) →
     (s.core r.core).l1Victim (lineOf r.pa) = none → r.pa % 128 + r.n ≤ 128 →
     ∃ e, s.serveAccess r = ((s.writeThrough r.who r.pa r.n r.data).dropReq r.id).lsAdvance r.core ∧
       let t := s.writeThrough r.who r.pa r.n r.data
       (∀ a n, t.mem.read a n = s.mem.read a n) ∧ (t.core r.core).l1Find (lineOf r.pa) = some e ∧
       e.get (r.pa % 128) r.n = r.data % 2 ^ (8 * r.n) ∧
       (∀ b, b < 128 → b < r.pa % 128 ∨ r.pa % 128 + r.n ≤ b → e.get b 1 = s.mem.read (128 * lineOf r.pa + b) 1) ∧
       ∀ b, b < 128 → (e.dirty.getLsbD b = true ↔ r.pa % 128 ≤ b ∧ b < r.pa % 128 + r.n))

/-- A result that is due lands: a fault-free result is in its register and its latch, its flags are set and it
is no more in flight (R23, R109, R132, R165). -/
def Obligations.ResultsLandInRegisterAndLatch : Prop :=
  (∀ (s : State) (c : CoreId) (u : IntUnit) (f : Flight) (t : Nat), (s.core c).fl = [f] → f.unit = intUnit u →
    f.due = some t → t ≤ s.now →
    exec (.intResultDelivery c u) s = .next (s.onCore c fun k => k.landOne f)) ∧
  (∀ (s : State) (c : CoreId) (f : Flight) (t : Nat), (s.core c).fl = [f] → f.unit = .vx → f.due = some t → t ≤ s.now →
    exec (.vectorResultDelivery c) s = .next (s.onCore c fun k => k.landOne f)) ∧
  (∀ (s : State) (id : Nat) (r : Req), s.req id = some r → r.served = true →
    (s.core r.core).loadDeferred r.fid = false →
    exec (.loadReply id) s = .next (((s.landReply r).dropReq id).lsAdvance r.core)) ∧
  (∀ (s : State) (id i : Nat) (r : Req), s.req id = some r → r.kind = .lane i → r.served = true →
    exec (.gatherLaneReply id) s = .next (((s.landLane r i).dropReq id).lsAdvance r.core)) ∧
  (∀ (k : Core) (f : Flight) (d : RegName), k.fl = [f] → f.unit ≠ .ls → f.cls = .s → f.bad = none →
    f.dest = some d → nameSpace d.toNat = .g → f.inUi = k.ui.active →
    let t := k.landOne f
    t.fl = [] ∧ t.rf.read d.toNat = f.value.toNat % 2 ^ 64 ∧
    (∀ n, n < 256 → n ≠ d.toNat → t.rf.read n = k.rf.read n) ∧
    t.lat[f.latchNo.val] = some f.value ∧ t.pctx.ncs = ncsRaise k.pctx.ncs f.flags ∧
    t.ports = k.ports ∧ t.spad = k.spad ∧ t.loops = k.loops)

/-! ## The vector unit -/

/-- Latency of a vector result in control cycles (R132). -/
def Sys2Proof.Claims.vecLat (s : State) (n : Nat) : Nat := (n * s.me.pctx.divVec + s.me.pctx.divCtl - 1) / s.me.pctx.divCtl

/-- A vector result delivered: r, its flags fl, after lat vector cycles. -/
def Sys2Proof.Claims.vecDelivers (s : State) (i : Instr) (cls : ResClass) (d : Option RegName) (r : V512) (fl : Flags)
    (lat : Nat) : State :=
  (delivers (s.chargeSlot i) .vx cls d r fl (vecLat s lat) (some (.vectorResultDelivery s.cur))).flushDeferred

/-- Lane j of r, for the n lanes of width w, is what f gives, and the flags are those any lane raises. -/
def Sys2Proof.Claims.LanesAre (w n : Nat) (r : V512) (fl : Flags) (f : Nat → Nat × Flags) : Prop :=
  (∀ j, j < n → lane w r j = (f j).1 % 2 ^ w) ∧
  ∀ b, b < 8 → (fl.getLsbD b = true ↔ ∃ j, j < n ∧ (f j).2.getLsbD b = true)

/-- A trigger of vx.x and the source completes: a V result, lane by lane. -/
def Sys2Proof.Claims.VecGives (i : Instr) (m : Mv) (w : Nat) (lat : Nat)
    (f : State → V512 → V512 → Nat → Nat × Flags) : Prop :=
  ∀ (s : State) (v x : V512) (d : Option RegName), Ready s i v → s.me.port .vxX = some x →
    destOf s .v m.k .vxTo = some d →
    ∃ r fl, exec i s = .next (vecDelivers s i .v d r fl lat) ∧ LanesAre w (512 / w) r fl (f s x v)

/-- The same of the source alone. -/
def Sys2Proof.Claims.VecGivesUnary (i : Instr) (m : Mv) (w : Nat) (lat : Nat)
    (f : State → V512 → Nat → Nat × Flags) : Prop :=
  ∀ (s : State) (v : V512) (d : Option RegName), Ready s i v → destOf s .v m.k .vxTo = some d →
    ∃ r fl, exec i s = .next (vecDelivers s i .v d r fl lat) ∧ LanesAre w (512 / w) r fl (f s v)

/-- A compare of vx.x and the source completes: bit j of a P result tells lane j, no flag is set (R137). -/
def Sys2Proof.Claims.VecCompares (i : Instr) (m : Mv) (w lat : Nat) (f : Nat → Nat → Bool) : Prop :=
  ∀ (s : State) (v x : V512) (d : Option RegName), Ready s i v → s.me.port .vxX = some x →
    let cls := if w = 16 then ResClass.p2 else ResClass.p
    destOf s cls m.k .vxTo = some d →
    ∃ r, exec i s = .next (vecDelivers s i cls d r 0 lat) ∧
      ∀ j, r.getLsbD j = (decide (j < 512 / w) && f (lane w x j) (lane w v j))

/-- The rounding mode of a bundle (R48). -/
def Sys2Proof.Claims.mode (s : State) : Rm := s.me.rm

/-- Adds, subtracts, products, minima, maxima, absolute values and negations, lane by lane: integers modulo
2^32, floats rounded in the mode of the bundle (R134, R135). -/
def Obligations.VectorArithmeticResults : Prop :=
  (∀ (t : Vt) (m : Mv), VecGives (.vadd t m) m (vtWidth t) (match t with | .fl _ => 4 | _ => 1) fun s x v j =>
    match t with
    | .fl f => fAdd (ftFmt f) (mode s) (ftVal f (lane (ftWidth f) x j)) (ftVal f (lane (ftWidth f) v j))
    | _ => ((BitVec.ofNat 32 (lane 32 x j) + BitVec.ofNat 32 (lane 32 v j)).toNat, 0)) ∧
  (∀ (t : Vt) (m : Mv), VecGives (.vsub t m) m (vtWidth t) (match t with | .fl _ => 4 | _ => 1) fun s x v j =>
    match t with
    | .fl f => fAdd (ftFmt f) (mode s) (ftVal f (lane (ftWidth f) x j)) (ftVal f (lane (ftWidth f) v j)).neg
    | _ => ((BitVec.ofNat 32 (lane 32 x j) - BitVec.ofNat 32 (lane 32 v j)).toNat, 0)) ∧
  (∀ (t : Vt) (m : Mv), VecGives (.vmul t m) m (vtWidth t) (match t with | .fl _ => 4 | _ => 3) fun s x v j =>
    match t with
    | .fl f => fMul (ftFmt f) (mode s) (ftVal f (lane (ftWidth f) x j)) (ftVal f (lane (ftWidth f) v j))
    | _ => ((BitVec.ofNat 32 (lane 32 x j) * BitVec.ofNat 32 (lane 32 v j)).toNat, 0)) ∧
  (∀ (t : Vt) (m : Mv), VecGives (.vmin t m) m (vtWidth t) (match t with | .fl _ => 4 | _ => 1) fun _ x v j =>
    match t with
    | .fl f => (fMinMax (ftFmt f) false (lane (ftWidth f) x j) (lane (ftWidth f) v j), 0)
    | .int => (if (BitVec.ofNat 32 (lane 32 x j)).sle (BitVec.ofNat 32 (lane 32 v j)) then lane 32 x j else lane 32 v j, 0)
    | .uint => (Nat.min (lane 32 x j) (lane 32 v j), 0)) ∧
  (∀ (t : Vt) (m : Mv), VecGives (.vmax t m) m (vtWidth t) (match t with | .fl _ => 4 | _ => 1) fun _ x v j =>
    match t with
    | .fl f => (fMinMax (ftFmt f) true (lane (ftWidth f) x j) (lane (ftWidth f) v j), 0)
    | .int => (if (BitVec.ofNat 32 (lane 32 x j)).sle (BitVec.ofNat 32 (lane 32 v j)) then lane 32 v j else lane 32 x j, 0)
    | .uint => (Nat.max (lane 32 x j) (lane 32 v j), 0)) ∧
  (∀ (t : Va) (m : Mv), VecGivesUnary (.vabs t m) m (vaWidth t) 1 fun _ v j =>
    match t with
    | .fl f => (if (ftVal f (lane (ftWidth f) v j)).isNan then (ftFmt f).nanCode
        else lane (ftWidth f) v j % (ftFmt f).signBit, 0)
    | .int => (if (BitVec.ofNat 32 (lane 32 v j)).msb then (-(BitVec.ofNat 32 (lane 32 v j))).toNat
        else lane 32 v j, 0)) ∧
  (∀ (t : Va) (m : Mv), VecGivesUnary (.vneg t m) m (vaWidth t) 1 fun _ v j =>
    match t with
    | .fl f => (if (ftVal f (lane (ftWidth f) v j)).isNan then (ftFmt f).nanCode
        else lane (ftWidth f) v j ^^^ (ftFmt f).signBit, 0)
    | .int => ((-(BitVec.ofNat 32 (lane 32 v j))).toNat, 0))

/-- A fused operation completes: one rounding of x times s plus or minus y (R134). -/
def Sys2Proof.Claims.FusedGives (i : Instr) (m : Mv) (t : Ft) (f : FVal → FVal → FVal → FVal × FVal × FVal) : Prop :=
  ∀ (s : State) (v x y : V512) (d : Option RegName), Ready s i v → s.me.port .vxX = some x → s.me.port .vxY = some y →
    destOf s .v m.k .vxTo = some d →
    ∃ r fl, exec i s = .next (vecDelivers s i .v d r fl 4) ∧
      LanesAre (ftWidth t) (512 / ftWidth t) r fl fun j =>
        let o := f (ftVal t (lane (ftWidth t) x j)) (ftVal t (lane (ftWidth t) v j)) (ftVal t (lane (ftWidth t) y j))
        fFma (ftFmt t) (mode s) o.1 o.2.1 o.2.2

/-- Fused operations, and the functions of FP32 lanes (R134, R136). -/
def Obligations.VectorFusedAndFunctionResults : Prop :=
  (∀ (t : Ft) (m : Mv), FusedGives (.vfma t m) m t (fun x v y => (x, v, y)) ∧
    FusedGives (.vfms t m) m t (fun x v y => (x, v, y.neg)) ∧
    FusedGives (.vfnma t m) m t (fun x v y => (x.neg, v, y))) ∧
  (∀ m : Mv, VecGivesUnary (.vrcp m) m 32 10 (fun s v j => fRcp (mode s) (fp32.value (lane 32 v j))) ∧
    VecGivesUnary (.vrsqrt m) m 32 10 (fun s v j => fRsqrt (mode s) (fp32.value (lane 32 v j))) ∧
    VecGivesUnary (.vexp2 m) m 32 10 (fun s v j => fExp2 (mode s) (fp32.value (lane 32 v j))) ∧
    VecGivesUnary (.vlog2 m) m 32 10 (fun s v j => fLog2 (mode s) (fp32.value (lane 32 v j))) ∧
    VecGivesUnary (.vsqrt m) m 32 12 (fun s v j => fSqrt (mode s) (fp32.value (lane 32 v j))))

/-- Compares (R137): quiet on floats, where a NaN compares false and the two zeros are equal. -/
def Obligations.VectorCompareResults : Prop :=
  (∀ (t : Vt) (m : Mv), VecCompares (.vcmpeq t m) m (vtWidth t) (match t with | .fl _ => 2 | _ => 1) fun x y =>
    match t with
    | .fl f => (ftVal f x).eq (ftVal f y)
    | _ => x == y) ∧
  (∀ (t : Vt) (m : Mv), VecCompares (.vcmplt t m) m (vtWidth t) (match t with | .fl _ => 2 | _ => 1) fun x y =>
    match t with
    | .fl f => FVal.lt false (ftVal f x) (ftVal f y)
    | .int => (BitVec.ofNat 32 x).slt (BitVec.ofNat 32 y)
    | .uint => decide (x < y)) ∧
  (∀ (t : Vt) (m : Mv), VecCompares (.vcmple t m) m (vtWidth t) (match t with | .fl _ => 2 | _ => 1) fun x y =>
    match t with
    | .fl f => FVal.lt false (ftVal f x) (ftVal f y) || (ftVal f x).eq (ftVal f y)
    | .int => (BitVec.ofNat 32 x).sle (BitVec.ofNat 32 y)
    | .uint => decide (x ≤ y)) ∧
  (∀ (t : Ft) (m : Mv), VecCompares (.vcmpun t m) m (ftWidth t) 2 fun x y =>
    (ftVal t x).isNan || (ftVal t y).isNan) ∧
  (∀ (t : Ft) (x y : Nat), ((ftVal t x).isNan = true ∨ (ftVal t y).isNan = true) →
    (ftVal t x).eq (ftVal t y) = false ∧ FVal.lt false (ftVal t x) (ftVal t y) = false)

/-- The triggers f stand at destination port p with FSEL x (R56). -/
def Sys2Proof.Claims.StandsAt (f : Mv → Instr) (p x : Nat) : Prop :=
  ∀ (m : Mv) (w : BitVec 24), encodeSlot (f m) = some w → w.extractLsb' 4 9 = p ∧ w.extractLsb' 0 4 = x

/-- R138 whole: vsel picks lanes of s where vx.p has its bit set and of vx.x elsewhere, bit for bit, with no
flag. -/
def Obligations.VselPicksLanesByPredicate : Prop :=
  (∀ w16, StandsAt (.vsel w16) 0x18A (if w16 then 1 else 0)) ∧
  ∀ (s : State) (w16 : Bool) (m : Mv) (v x p : V512) (d : Option RegName), Ready s (.vsel w16 m) v →
    s.me.port .vxX = some x → s.me.port .vxP = some p → destOf s .v m.k .vxTo = some d →
    ∃ r, exec (.vsel w16 m) s = .next (vecDelivers s (.vsel w16 m) .v d r 0 1) ∧
      ∀ j, j < (if w16 then 32 else 16) →
        let w := if w16 then 16 else 32
        lane w r j = if p.getLsbD j then lane w v j else lane w x j

/-- R139 whole: predicate logic on 16 bits, `not` without vx.p, and the FSEL values that are none. -/
def Obligations.VplCombinesPredicates : Prop :=
  (∀ (s : State) (op : Pl) (m : Mv) (v p : V512) (d : Option RegName), Ready s (.vpl op m) v →
    (op = .not ∨ s.me.port .vxP = some p) → destOf s .p false .vxTo = some d →
    let a := p.setWidth 16
    let b := v.setWidth 16
    exec (.vpl op m) s = .next (vecDelivers s (.vpl op m) .p d ((match op with
      | .and => a &&& b
      | .or => a ||| b
      | .xor => a ^^^ b
      | .andn => a &&& ~~~b
      | .not => ~~~b : BitVec 16).setWidth 512) 0 1)) ∧
  (∀ w : BitVec 24, w.extractLsb' 4 9 = 0x19F → 5 ≤ (w.extractLsb' 0 4).toNat → ∃ r, decodeSlot w = .error r ∧
    r.operand = false) ∧
  ∀ op, StandsAt (.vpl op) 0x19F (match op with | .and => 0 | .or => 1 | .xor => 2 | .andn => 3 | .not => 4)

/-- R140 whole: bitwise operations on all 512 bits, and shifts of lanes by the low five bits of the lanes of s. -/
def Obligations.VectorBitwiseResults : Prop :=
  (∀ (s : State) (m : Mv) (v x : V512) (d : Option RegName), s.me.port .vxX = some x →
    destOf s .v m.k .vxTo = some d →
    (Ready s (.vand m) v → exec (.vand m) s = .next (vecDelivers s (.vand m) .v d (x &&& v) 0 1)) ∧
    (Ready s (.vor m) v → exec (.vor m) s = .next (vecDelivers s (.vor m) .v d (x ||| v) 0 1)) ∧
    (Ready s (.vxor m) v → exec (.vxor m) s = .next (vecDelivers s (.vxor m) .v d (x ^^^ v) 0 1))) ∧
  (∀ m : Mv, VecGives (.vshl m) m 32 1 fun _ x v j =>
    (lane 32 x j * 2 ^ (lane 32 v j % 32), 0)) ∧
  (∀ (a : Bool) (m : Mv), VecGives (.vshr a m) m 32 1 fun _ x v j =>
    (if a then ((BitVec.ofNat 32 (lane 32 x j)).sshiftRight (lane 32 v j % 32)).toNat
      else lane 32 x j / 2 ^ (lane 32 v j % 32), 0)) ∧
  StandsAt .vand 0x18B 0 ∧ StandsAt .vor 0x18C 0 ∧ StandsAt .vxor 0x18D 0 ∧ StandsAt .vshl 0x18E 0 ∧
  StandsAt (.vshr false) 0x18F 0 ∧ StandsAt (.vshr true) 0x18F 1

/-- R144: broadcasts, permutes, extracts, inserts and rotations copy lanes and set no flag. -/
def Obligations.VectorLaneMovementResults : Prop :=
  (∀ (w16 : Bool) (m : Mv), VecGivesUnary (.vbcast w16 m) m (if w16 then 16 else 32) 1 fun _ v _ =>
    (v.toNat % 2 ^ (if w16 then 16 else 32), 0)) ∧
  (∀ m : Mv, VecGives (.vperm m) m 32 1 (fun _ x v j => (lane 32 x (lane 32 v j % 16), 0)) ∧
    VecGives (.vrot m) m 32 1 (fun _ x v j => (lane 32 x ((j + v.toNat % 16) % 16), 0))) ∧
  (∀ (s : State) (m : Mv) (v x y : V512) (d : Option RegName), Ready s (.vins m) v → s.me.port .vxX = some x →
    s.me.port .vxS = some y → destOf s .v m.k .vxTo = some d →
    ∃ r, exec (.vins m) s = .next (vecDelivers s (.vins m) .v d r 0 1) ∧
      ∀ j, j < 16 → lane 32 r j = if j = v.toNat % 16 then (lo32 y).toNat else lane 32 x j) ∧
  (∀ (s : State) (sx : Bool) (m : Mv) (v x : V512) (d : Option RegName), Ready s (.vext sx m) v →
    s.me.port .vxX = some x → destOf s .s m.k .vxTo = some d →
    exec (.vext sx m) s = .next (vecDelivers s (.vext sx m) .s d
      (wide (let e := BitVec.ofNat 32 (lane 32 x (v.toNat % 16))
        if sx then e.signExtend 64 else e.setWidth 64)) 0 1)) ∧
  (∀ b, StandsAt (.vbcast b) 0x196 (if b then 1 else 0) ∧ StandsAt (.vext b) 0x198 (if b then 1 else 0)) ∧
  StandsAt .vperm 0x197 0 ∧ StandsAt .vins 0x199 0 ∧ StandsAt .vrot 0x19A 0

/-- R145 whole: vld and vst move 64 bytes; ALIGN and HBOUND of a bad address, with nothing committed. Bytes with an
uncorrectable soft error give a faulty result (R166, R384; the model's choice of its path, log 29). -/
def Obligations.VectorScratchpadAccesses : Prop :=
  (∀ (s : State) (m : Mv) (v : V512) (d : Option RegName), Ready s (.vld m) v → sval v % 64 = 0 → sval v < 0x80000 →
    destOf s .v m.k .vxTo = some d →
    (s.me.spadErr (sval v) 64 = false →
      exec (.vld m) s = .next (vecDelivers s (.vld m) .v d (BitVec.ofNat 512 (s.me.spad.read (sval v) 64)) 0 6)) ∧
    (s.me.spadErr (sval v) 64 = true → s.me.bs.deferred = [] → (∀ f ∈ s.me.fl, f.id < s.nextId) →
      ∃ t f, exec (.vld m) s = .next t ∧ t.me.fl = s.me.fl ++ [f] ∧ f.dest = d ∧ f.bad = some .eccunc ∧
        f.va = BitVec.ofNat 64 (2 ^ 56 - 2 ^ 19 + sval v) ∧ t.me.rf = s.me.rf ∧ t.me.spad = s.me.spad)) ∧
  (∀ (s : State) (m : Mv) (v a : V512), Ready s (.vst m) v → s.me.port .vxS = some a → s.me.bs.deferred = [] →
    sval a % 64 = 0 → sval a < 0x80000 →
    ∃ t, exec (.vst m) s = .next t ∧ t.me.spad = s.me.spad.write (sval a) 64 v.toNat ∧ t.me.rf = s.me.rf ∧
      t.me.fl = s.me.fl ∧ t.me.ports = s.me.ports ∧ t.mem = (s.chargeSlot (.vst m)).mem) ∧
  (∀ (s : State) (m : Mv) (v : V512), Ready s (.vld m) v →
    (sval v % 64 ≠ 0 → exec (.vld m) s = .next (s.fault .align none s.me.bs.slot true)) ∧
    (sval v % 64 = 0 → 0x80000 ≤ sval v → exec (.vld m) s = .next (s.fault .hbound none s.me.bs.slot true))) ∧
  (∀ (s : State) (m : Mv) (v a : V512), Ready s (.vst m) v → s.me.port .vxS = some a →
    (sval a % 64 ≠ 0 → exec (.vst m) s = .next (s.fault .align none s.me.bs.slot true)) ∧
    (sval a % 64 = 0 → 0x80000 ≤ sval a → exec (.vst m) s = .next (s.fault .hbound none s.me.bs.slot true))) ∧
  StandsAt .vld 0x19B 0 ∧ StandsAt .vst 0x19C 0

/-- The fixed tree of a float reduction. -/
def Sys2Proof.Claims.treeOf (op : Nat → Nat → Nat × Flags) (f : Ft) (t : Vt) (v : V512) : V512 × Flags :=
  (BitVec.ofNat 512 (treeReduce op (if f = .f32 then 4 else 5) (leaves t v)).1,
    (treeReduce op (if f = .f32 then 4 else 5) (leaves t v)).2)

/-- Conversions between formats and integers, narrowing and widening under a scale code (R33 to R47, R141, R142); and
reductions: integers sum modulo 2^32 in any order, or take the greatest or least lane, and raise no flag; floats
combine in the fixed tree (R143). An inconsistent format register is FMTREG (R37). -/
def Obligations.VectorConversionsAndReductions : Prop :=
  (∀ m : Mv,
    VecGivesUnary (.vcvt .bf2f m) m 32 3 (fun s v j => fRound fp32 (mode s) (bf16.value (lane 16 v j))) ∧
    VecGivesUnary (.vcvt .h2f m) m 32 3 (fun s v j => fRound fp32 (mode s) (fp16.value (lane 16 v j))) ∧
    VecGivesUnary (.vcvt .bf2h m) m 16 3 (fun s v j => fRound fp16 (mode s) (bf16.value (lane 16 v j))) ∧
    VecGivesUnary (.vcvt .h2bf m) m 16 3 (fun s v j => fRound bf16 (mode s) (fp16.value (lane 16 v j))) ∧
    VecGivesUnary (.vcvt .f2i m) m 32 3 (fun s v j => fToInt (mode s) true (fp32.value (lane 32 v j))) ∧
    VecGivesUnary (.vcvt .f2it m) m 32 3 (fun _ v j => fToInt .rtz true (fp32.value (lane 32 v j))) ∧
    VecGivesUnary (.vcvt .f2ui m) m 32 3 (fun s v j => fToInt (mode s) false (fp32.value (lane 32 v j))) ∧
    VecGivesUnary (.vcvt .f2uit m) m 32 3 (fun _ v j => fToInt .rtz false (fp32.value (lane 32 v j))) ∧
    VecGivesUnary (.vcvt .i2f m) m 32 3 (fun s v j => intToF (mode s) true (lane 32 v j)) ∧
    VecGivesUnary (.vcvt .ui2f m) m 32 3 (fun s v j => intToF (mode s) false (lane 32 v j)) ∧
    VecGives (.vcvt .f2bf m) m 16 3 (fun s x v j =>
      fRound bf16 (mode s) (fp32.value (if j < 16 then lane 32 v j else lane 32 x (j - 16)))) ∧
    VecGives (.vcvt .f2h m) m 16 3 (fun s x v j =>
      fRound fp16 (mode s) (fp32.value (if j < 16 then lane 32 v j else lane 32 x (j - 16))))) ∧
  (∀ (s : State) (ks : Bool) (m : Mv) (v x fv sv : V512) (d : Option RegName), s.me.port .vxF = some fv →
    s.me.port .vxS = some sv → Fmt.consistent (BitVec.ofNat 32 fv.toNat) = true → sval sv < 2 ^ 10 →
    destOf s .v m.k .vxTo = some d →
    let F : Fmt := BitVec.ofNat 32 fv.toNat
    let k := if ks then sval sv % 256 else 127
    let w := if F.isNibble then 64 else 128
    let lo := w * (sval sv / 256)
    (Ready s (.vwiden ks m) v → ∃ r fl, exec (.vwiden ks m) s = .next (vecDelivers s (.vwiden ks m) .v d r fl 3) ∧
      LanesAre 32 16 r fl fun j => decodeNarrow F (mode s) (narrowAt F (v.toNat / 2 ^ lo % 2 ^ w) j) k) ∧
    (Ready s (.vnarrow ks m) v → s.me.port .vxX = some x →
      ∃ r fl, exec (.vnarrow ks m) s = .next (vecDelivers s (.vnarrow ks m) .v d r fl 3) ∧
        (∀ j, j < lo ∨ lo + w ≤ j → r.getLsbD j = x.getLsbD j) ∧
        r.toNat / 2 ^ lo % 2 ^ w = packNarrow F ((upto 16).map fun i =>
          (encode F (bit (lane 32 v i) 31) (fp32.value (lane 32 v i)) k).code) % 2 ^ w ∧
        ∀ n, fl.getLsbD n = (upto 16).any fun i =>
          (encode F (bit (lane 32 v i) 31) (fp32.value (lane 32 v i)) k).flags.getLsbD n)) ∧
  (∀ (s : State) (ks : Bool) (m : Mv) (v fv sv : V512), Ready s (.vwiden ks m) v → s.me.port .vxF = some fv →
    s.me.port .vxS = some sv → Fmt.consistent (BitVec.ofNat 32 fv.toNat) = false →
    exec (.vwiden ks m) s = .next (s.fault .fmtreg none s.me.bs.slot true)) ∧
  (∀ (s : State) (ks : Bool) (m : Mv) (v x fv sv : V512), Ready s (.vnarrow ks m) v → s.me.port .vxX = some x →
    s.me.port .vxF = some fv → s.me.port .vxS = some sv → Fmt.consistent (BitVec.ofNat 32 fv.toNat) = false →
    exec (.vnarrow ks m) s = .next (s.fault .fmtreg none s.me.bs.slot true)) ∧
  (∀ (s : State) (t : Vt) (m : Mv) (v : V512) (d : Option RegName), destOf s .s m.k .vxTo = some d →
    let lat := match t with | .fl .f32 => 9 | .fl _ => 11 | _ => 3
    let b (j : Nat) : BitVec 32 := BitVec.ofNat 32 (lane 32 v j)
    let out (x : BitVec 32) : V512 := wide (if t = .int then x.signExtend 64 else x.setWidth 64)
    (Ready s (.vrsum t m) v → ∃ r fl, exec (.vrsum t m) s = .next (vecDelivers s (.vrsum t m) .s d r fl lat) ∧
      ((∀ f, t ≠ .fl f) → r = out ((List.range 16).foldl (fun a j => a + b j) 0) ∧ fl = 0) ∧
      (∀ f, t = .fl f → (r, fl) = treeOf (laneAdd (.fl .f32) (mode s)) f t v)) ∧
    (Ready s (.vrmax t m) v → ∃ r fl, exec (.vrmax t m) s = .next (vecDelivers s (.vrmax t m) .s d r fl lat) ∧
      ((∀ f, t ≠ .fl f) → fl = 0) ∧
      (t = .uint → (∃ j, j < 16 ∧ r = out (b j)) ∧ ∀ j, j < 16 → (b j).toNat ≤ r.toNat) ∧
      (t = .int → ∃ i, i < 16 ∧ r = out (b i) ∧ ∀ j, j < 16 → (b j).toInt ≤ (b i).toInt) ∧
      (∀ f, t = .fl f → (r, fl) = treeOf (laneMinMax (.fl .f32) true) f t v)) ∧
    (Ready s (.vrmin t m) v → ∃ r fl, exec (.vrmin t m) s = .next (vecDelivers s (.vrmin t m) .s d r fl lat) ∧
      ((∀ f, t ≠ .fl f) → fl = 0) ∧
      (t = .uint → (∃ j, j < 16 ∧ r = out (b j)) ∧ ∀ j, j < 16 → r.toNat ≤ (b j).toNat) ∧
      (t = .int → ∃ i, i < 16 ∧ r = out (b i) ∧ ∀ j, j < 16 → (b i).toInt ≤ (b j).toInt) ∧
      (∀ f, t = .fl f → (r, fl) = treeOf (laneMinMax (.fl .f32) false) f t v)))

/-- Scratchpad gathers and scatters move 16 words, the first bad lane faulting with its number and address; a
memory gather or scatter of the unit makes one request a lane, in lane order, one a control cycle behind the lanes it
has still to issue, or is handed to the gather engine (R147 to R149). A word with an uncorrectable soft error poisons
the vector (R166, R384, log 29). It goes ahead while 16 request slots are free (log 42): the model's choices. -/
def Obligations.VectorGathersAndScatters : Prop :=
  (∀ (s : State) (m : Mv) (v : V512) (d : Option RegName), Ready s (.vgth false m) v →
    (∀ j, j < 16 → lane 32 v j % 4 = 0 ∧ lane 32 v j < 0x80000) → destOf s .v m.k .vxTo = some d →
    ((∀ j, j < 16 → s.me.spadErr (lane 32 v j) 4 = false) →
      ∃ r, exec (.vgth false m) s = .next (vecDelivers s (.vgth false m) .v d r 0 8) ∧
        ∀ j, j < 16 → lane 32 r j = s.me.spad.read (lane 32 v j) 4) ∧
    ∀ j, j < 16 → s.me.spadErr (lane 32 v j) 4 = true → s.me.bs.deferred = [] → (∀ f ∈ s.me.fl, f.id < s.nextId) →
      ∃ t f, exec (.vgth false m) s = .next t ∧ t.me.fl = s.me.fl ++ [f] ∧ f.dest = d ∧ f.bad = some .eccunc) ∧
  (∀ (s : State) (m : Mv) (v x : V512), Ready s (.vsct false m) v → s.me.port .vxX = some x → s.me.bs.deferred = [] →
    (∀ j, j < 16 → lane 32 v j % 4 = 0 ∧ lane 32 v j < 0x80000) →
    ∃ t, exec (.vsct false m) s = .next t ∧
      t.me.spad = (List.range 16).foldl (fun p j => p.write (lane 32 v j) 4 (lane 32 x j)) s.me.spad ∧
      t.me.rf = s.me.rf ∧ t.me.fl = s.me.fl ∧ t.mem = (s.chargeSlot (.vsct false m)).mem) ∧
  (∀ (s : State) (m : Mv) (v : V512) (i : Nat), Ready s (.vgth false m) v → i < 16 →
    (∀ j, j < i → lane 32 v j % 4 = 0 ∧ lane 32 v j < 0x80000) →
    ¬ (lane 32 v i % 4 = 0 ∧ lane 32 v i < 0x80000) →
    exec (.vgth false m) s = .next (s.fault (if lane 32 v i % 4 = 0 then .hbound else .align)
      (some (BitVec.ofNat 64 (i * 2 ^ 60 + lane 32 v i))) s.me.bs.slot true)) ∧
  (∀ (s : State) (m : Mv) (v hv : V512) (d : Option RegName), Ready s (.vgth true m) v → s.me.port .vxH = some hv →
    laneCheck v (fun o => checkHandle (BitVec.ofNat 128 hv.toNat) s.me.ctx o 4 .r) = none →
    Handle.isSpad (BitVec.ofNat 128 hv.toNat) = false → s.me.pctx.gmode = false → slotsFull s 16 = false →
    destOf s .v m.k .vxTo = some d →
    let h : Handle := BitVec.ofNat 128 hv.toNat
    let a := ((s.chargeSlot (.vgth true m)).awaitReply .v d .vx 0).2.onMe fun k =>
      { k with fl := k.fl.map fun f => if f.id = s.nextId then { f with lanes := 16 } else f }
    exec (.vgth true m) s = .next ((List.range 16).foldl (fun c i => c.makeReqAt (.lane i) (h.pbase + lane 32 v i) 4 0
      s.nextId (h.va (lane 32 v i)) h.psz (a.laneStart + i * c.me.cl) true) a).flushDeferred) ∧
  (∀ (s : State) (m : Mv) (v hv : V512) (d : Option RegName), Ready s (.vgth true m) v → s.me.port .vxH = some hv →
    laneCheck v (fun o => checkHandle (BitVec.ofNat 128 hv.toNat) s.me.ctx o 4 .r) = none →
    Handle.isSpad (BitVec.ofNat 128 hv.toNat) = true → destOf s .v m.k .vxTo = some d →
    (∀ j, j < 16 → s.me.spadErr (lane 32 v j) 4 = false) →
    ∃ r, exec (.vgth true m) s = .next (vecDelivers s (.vgth true m) .v d r 0 8) ∧
      ∀ j, j < 16 → lane 32 r j = s.me.spad.read (lane 32 v j) 4) ∧
  (∀ (s : State) (m : Mv) (v x hv : V512), Ready s (.vsct true m) v → s.me.port .vxX = some x →
    s.me.port .vxH = some hv →
    laneCheck v (fun o => checkHandle (BitVec.ofNat 128 hv.toNat) s.me.ctx o 4 .w) = none →
    Handle.isSpad (BitVec.ofNat 128 hv.toNat) = false → s.me.pctx.gmode = false → slotsFull s 16 = false →
    let h : Handle := BitVec.ofNat 128 hv.toNat
    let a := s.chargeSlot (.vsct true m)
    exec (.vsct true m) s = .next ((List.range 16).foldl (fun c i => c.makeReqAt .store (h.pbase + lane 32 v i) 4
      (lane 32 x i) 0 (h.va (lane 32 v i)) h.psz (a.laneStart + i * c.me.cl) true) a).flushDeferred) ∧
  (∀ (s : State) (m : Mv) (v hv : V512) (d : Option RegName), Ready s (.vgth true m) v → s.me.port .vxH = some hv →
    laneCheck v (fun o => checkHandle (BitVec.ofNat 128 hv.toNat) s.me.ctx o 4 .r) = none →
    Handle.isSpad (BitVec.ofNat 128 hv.toNat) = false → s.me.pctx.gmode = true → s.me.ga.ops.length < 5 →
    s.reqsOf s.cur = [] → destOf s .v m.k .vxTo = some d →
    ∃ t g f, exec (.vgth true m) s = .next t ∧ t.me.ga.ops = s.me.ga.ops ++ [g] ∧ g.fid = some s.nextId ∧
      g.page = BitVec.ofNat 128 hv.toNat ∧ f ∈ t.me.fl ∧ f.id = s.nextId ∧ f.unit = .vx ∧ f.dest = d) ∧
  (∀ (s : State) (m : Mv) (v x hv : V512), Ready s (.vsct true m) v → s.me.port .vxX = some x →
    s.me.port .vxH = some hv →
    laneCheck v (fun o => checkHandle (BitVec.ofNat 128 hv.toNat) s.me.ctx o 4 .w) = none →
    Handle.isSpad (BitVec.ofNat 128 hv.toNat) = false → s.me.pctx.gmode = true → s.me.ga.ops.length < 5 →
    s.reqsOf s.cur = [] → (s.me.sg.pass.any fun p => p.pend) = false →
    let h : Handle := BitVec.ofNat 128 hv.toNat
    let c := s.chargeSlot (.vsct true m)
    exec (.vsct true m) s = .next ((((List.range 16).foldl (fun c i =>
      c.writeThrough (c.who c.cur) (h.pbase + lane 32 v i) 4 (lane 32 x i)) c).endRelFence
      ).queueGather ⟨none, h, [c.handedRow h v false], none⟩).flushDeferred) ∧
  (∀ (s : State) (m : Mv) (v x hv : V512), Ready s (.vsct true m) v → s.me.port .vxX = some x →
    s.me.port .vxH = some hv → s.me.bs.deferred = [] →
    laneCheck v (fun o => checkHandle (BitVec.ofNat 128 hv.toNat) s.me.ctx o 4 .w) = none →
    Handle.isSpad (BitVec.ofNat 128 hv.toNat) = true →
    ∃ t, exec (.vsct true m) s = .next t ∧
      t.me.spad = (List.range 16).foldl (fun p j => p.write (lane 32 v j) 4 (lane 32 x j)) s.me.spad)

/-! ## Queues, pipes, rings and the Hedgerow -/

/-- A push appends its 64 bytes to the pipe bound to its port, readable 60 quanta later; one to a pipe whose
consumer has ended is discarded, one to a full pipe freezes, one to an unbound port raises ILLOPD; a push to w3
appends to the bound encoder's queue, where it arrives after a time that is open (R21, R277, R278, R357; the model's
choice, log 3). QLVL, QWAIT and PSEQ: the entries behind a head or the
free entries of a port, waited for while there are none; the sequence number of a head's entry (R101, R277, R284). -/
def Obligations.QueuesAndPipes : Prop :=
  (∀ (s : State) (src : Src) (w : Fin 8) (v : V512) (n : Nat) (p : Pipe), Ready s (.push src w) v → 4 ≤ w.val →
    let c := s.chargeSlot (.push src w)
    c.outPipeOf s.cur w.val = some (n, p) →
    (p.consEnded = true → exec (.push src w) s = .next c.flushDeferred) ∧
    (p.consEnded = false → 0 < p.room s.me.time → exec (.push src w) s = .next (((c.onCluster (clusterOf s.cur) fun q =>
      q.setPipe n (some { p with
        entries := p.entries ++ [(⟨v, p.seq, false⟩, false)]
        seq := p.seq + 1
        freed := p.freed.filter fun t => decide (s.me.time < t) })).schedule (s.me.time + 60)
          (.pipeEntryArrive (clusterOf s.cur) ⟨n % 16, Nat.mod_lt _ (by decide)⟩)).flushDeferred)) ∧
    (p.consEnded = false → p.room s.me.time = 0 → exec (.push src w) s = .next (s.freeze [.pipe] s.me.bs.slot))) ∧
  (∀ (s : State) (src : Src) (w : Fin 8) (v : V512), Ready s (.push src w) v →
    w.val < 3 ∨ (4 ≤ w.val ∧ (s.chargeSlot (.push src w)).outPipeOf s.cur w.val = none) →
    exec (.push src w) s = .next (s.fault .illopd none s.me.bs.slot true)) ∧
  (∀ (s : State) (src : Src) (v : V512) (strm : StrmId) (e : Fin 8) (t : Stream), Ready s (.push src 3) v →
    let c := s.chargeSlot (.push src 3)
    c.w3Enc s.cur = some (strm, e) → c.stream strm.toNat = some t → (c.enc e).queue.length < 64 →
    let q := (c.onStream strm.toNat fun t => { t with w3seq := t.w3seq + 1 }).onEnc e fun x =>
      { x with queue := x.queue ++ [(strm, ⟨v, t.w3seq, false⟩, false)] }
    exec (.push src 3) s = .next (((q.takeDelay Config.guideEncoder).2.schedule
      (s.me.time + (q.takeDelay Config.guideEncoder).1) (.encoderEntryArrive e)).flushDeferred)) ∧
  (∀ (s : State) (k : ClusterId) (n : Fin 16) (p : Pipe) (a r : List (QEntry × Bool)) (q : QEntry),
    (s.cluster k).pipes[n] = some p → p.entries = a ++ (q, false) :: r → a.all (·.2) = true →
    exec (.pipeEntryArrive k n) s = .next (s.onCluster k fun c => c.setPipe n.val (some { p with
      entries := a ++ (q, true) :: r }))) ∧
  (∀ (s : State) (free : Bool) (m : Mv) (v : V512) (n : Nat) (d : Option RegName), Ready s (.qlvl free m) v →
    let c := s.chargeSlot (.qlvl free m)
    (if free then c.portRoom (sval v % 8) else c.headCount (headOf v)) = some n → destOf c .s m.k .qxTo = some d →
    exec (.qlvl free m) s = .next (delivers c .qx .s d (BitVec.ofNat 512 n) 0 1 none).flushDeferred) ∧
  (∀ (s : State) (room : Bool) (m : Mv) (v : V512) (n : Nat), Ready s (.qwait room m) v →
    let c := s.chargeSlot (.qwait room m)
    (if room then c.portRoom (sval v % 8) else c.headCount (headOf v)) = some n →
    exec (.qwait room m) s = .next (if n = 0 then s.freeze [if room then .pipe else headWait (headOf v)] s.me.bs.slot
      else (delivers c .qx .latch none (BitVec.ofNat 512 n) 0 1 none).flushDeferred)) ∧
  (∀ (s : State) (m : Mv) (v : V512) (e : QEntry) (n : Nat) (d : Option RegName), Ready s (.pseq m) v →
    let c := s.chargeSlot (.pseq m)
    c.head (headOf v) = .entry e n → destOf c .s m.k .qxTo = some d →
    exec (.pseq m) s = .next (delivers c .qx .s d (BitVec.ofNat 512 e.seq.toNat) 0 1 none).flushDeferred) ∧
  (∀ s : State, s.headCount 0 = some s.me.q0.length ∧ s.headCount 1 = some s.me.q1.length ∧
    s.headCount 2 = some s.me.q2.length ∧ s.portRoom 0 = none ∧ s.portRoom 1 = none ∧ s.portRoom 2 = none ∧
    ∀ n : Fin 8, 4 ≤ n.val → s.inPipe s.cur n.val = none → s.headCount n = none)

/-- RINGACQ claims the next slot of a ring when it is free, RINGREL frees a READY slot named with its RSEQ,
RINGST reads the ring's counts, RREL frees a slot for the host (R353 to R356). -/
def Obligations.RingSlotsAreClaimedAndReleased : Prop :=
  (∀ (s : State) (m : Mv) (v : V512) (t : Stream) (d : Option RegName), Ready s (.ringacq m) v →
    let c := s.chargeSlot (.ringacq m)
    let n := sval v % 64
    c.me.pendingReport false = none → bits (sval v) 7 6 = 0 → sval v < 2 ^ 9 → c.stream n = some t → t.ctx = s.me.ctx →
    t.slots ≠ [] → destOf c .s m.k .qxTo = some d →
    (bit (sval v) 8 = true → aloneInBundle c = true ∧ s.me.ui.active = false ∧ s.me.run.bind (·.gang) = none ∧
      s.me.loops = []) →
    exec (.ringacq m) s = .next (if t.slotSt t.nextSlot = .free
      then (delivers (((c.selfInvalidate s.cur).acquireVc s.cur (t.slotVc t.nextSlot)).claimSlot n t.nextSlot)
        .qx .s d (BitVec.ofNat 512 (t.nextSlot + 2 ^ 32 * t.nseq.toNat)) 0 6 none).flushDeferred
      else if bit (sval v) 8 then (c.ringSuspend n t.nextSlot).flushDeferred
      else s.freeze [.pipe] s.me.bs.slot)) ∧
  (∀ (s : State) (n : Nat) (t : Stream), n < 64 → s.stream n = some t → t.slots ≠ [] →
    ∃ u, (s.claimSlot n t.nextSlot).stream n = some u ∧ u.slotSt t.nextSlot = .prod ∧ u.acqc = t.acqc + 1 ∧
      u.nseq = t.nseq + 1 ∧ ∀ k, k ≠ t.nextSlot → u.slotSt k = t.slotSt k) ∧
  (∀ (s : State) (m : Mv) (v : V512) (t : Stream) (n : Nat), Ready s (.ringrel m) v →
    let c := s.chargeSlot (.ringrel m)
    c.me.pendingReport true = none → c.releaseBusy = false → c.me.fl.any (·.acq) = false →
    bits (sval v) 7 6 = 0 → bits (sval v) 31 12 = 0 → c.stream (sval v % 64) = some t → t.ctx = s.me.ctx →
    t.slots ≠ [] → t.releasable (sval v) = some n →
    exec (.ringrel m) s = .next (delivers (c.eagerRelease.2.freeSlot (sval v % 64) n c.eagerRelease.1)
      .qx .latch none 0 0 4 none).flushDeferred) ∧
  (∀ (s : State) (f : RingField) (m : Mv) (v : V512) (t : Stream) (d : Option RegName), Ready s (.ringst f m) v →
    let c := s.chargeSlot (.ringst f m)
    sval v < 64 → c.stream (sval v) = some t → t.ctx = s.me.ctx → t.slots ≠ [] → destOf c .s m.k .qxTo = some d →
    exec (.ringst f m) s = .next (delivers c .qx .s d (BitVec.ofNat 512 (match f with
      | .prod => t.acqc.toNat
      | .cons => t.donec.toNat
      | .free => (t.slots.filter fun x => x.st == .free).length)) 0 4 none).flushDeferred) ∧
  (∀ (s : State) (strm : StrmId) (v : W64) (t : Stream) (n : Nat), s.stream strm.toNat = some t →
    bits v.toNat 7 6 = 0 → bits v.toNat 31 12 = 0 → t.releasable v.toNat = some n →
    exec (.rrel strm v) s = .next (s.freeSlot strm.toNat n s.hostVc)) ∧
  (∀ (s : State) (strm : StrmId) (t : Stream) (n : Nat) (vc : Vc), s.stream strm.toNat = some t → n < t.slots.length →
    t.waiters = [] → t.link = 0 → ∃ u, (s.freeSlot strm.toNat n vc).stream strm.toNat = some u ∧ u.slotSt n = .free ∧
      u.slotVc n = vc ∧ u.relc = t.relc + 1 ∧ ∀ k, k ≠ n → u.slots[k]? = t.slots[k]?) ∧
  (∀ (s : State) (strm : StrmId) (v : W64), (s.stream strm.toNat = none ∨ bits v.toNat 7 6 ≠ 0 ∨ bits v.toNat 31 12 ≠ 0) →
    exec (.rrel strm v) s = .next s)

/-- Words of the Hedgerow: XMIT sends one over the link of a direction, three link cycles long; XSEL sets an
input's selection; a word that arrives is handled under the selection; a word for a full q3 is dropped and
counted (R281 to R284). The latch of XMIT and XSEL is a free value of the model (log 5). -/
def Obligations.HedgerowWordsFollowSelections : Prop :=
  (∀ (s : State) (d : Dir) (m : Mv) (v : V512) (n : ClusterId), Ready s (.xmit d m) v →
    let c := s.chargeSlot (.xmit d m)
    c.inPhase = true → c.phaseNeighbour d = some n →
    (c.cluster (clusterOf s.cur)).hedge.outUsed.contains (s.me.time, d) = false →
    ∃ t r, exec (.xmit d m) s = .next t ∧
      (t.cluster n).hedge.arriving = r ++ [(s.me.time + 45, dirOpp d, v)] ∧ r = (s.cluster n).hedge.arriving ∧
      (t.cluster (clusterOf s.cur)).hedge.outUsed.contains (s.me.time, d) = true ∧ t.me.q3 = s.me.q3) ∧
  (∀ (s : State) (d : Dir) (m : Mv) (v : V512), Ready s (.xmit d m) v → (s.chargeSlot (.xmit d m)).inPhase = false →
    exec (.xmit d m) s = .next (s.fault .illopd none s.me.bs.slot true)) ∧
  (∀ (s : State) (d : Dir) (m : Mv) (v : V512) (o : Option Dir), Ready s (.xsel d m) v →
    let c := s.chargeSlot (.xsel d m)
    c.inPhase = true → sval v < 32 →
    (bit (sval v) 4 = false ∧ o = none) ∨ (bit (sval v) 4 = true ∧ ∃ x, s.me.port .qxX = some x ∧ sval x < 4 ∧
      (c.phaseNeighbour (Machine.dirOf (sval x))).isSome = true ∧ o = some (Machine.dirOf (sval x))) →
    ∃ t, exec (.xsel d m) s = .next t ∧ (t.cluster (clusterOf s.cur)).hedge.sel =
      (s.cluster (clusterOf s.cur)).hedge.sel.set (dirNum d % 4)
        ⟨o, if bit (sval v) 3 then some ⟨sval v % 8, Nat.mod_lt _ (by decide)⟩ else none⟩ (Nat.mod_lt _ (by decide))) ∧
  (∀ (s : State) (k n : ClusterId) (d o : Dir) (t : Nat) (v : V512), (s.cluster k).hedge.arriving = [(t, d, v)] →
    t ≤ s.now → (s.cluster k).hedge.sel[dirNum d]? = some ⟨some o, none⟩ → neighbour k o = some n →
    (s.cluster k).hedge.outUsed.contains (t, o) = false →
    ∃ u, exec (.linkWordArrive k d) s = .next u ∧ (u.cluster k).hedge.arriving = [] ∧
      (u.cluster n).hedge.arriving = (s.cluster n).hedge.arriving ++ [(t + 45, dirOpp o, v)] ∧
      (u.cluster k).hedge.drops = (s.cluster k).hedge.drops) ∧
  (∀ (s : State) (k : ClusterId) (d : Dir) (t : Nat) (v : V512) (j : Fin 8), (s.cluster k).hedge.arriving = [(t, d, v)] →
    t ≤ s.now → (s.cluster k).hedge.sel[dirNum d]? = some ⟨none, some j⟩ →
    ∃ u, exec (.linkWordArrive k d) s = .next u ∧ (u.cluster k).hedge.arriving = [] ∧
      if 64 ≤ (s.core (coreOf k j.val)).q3.length
      then (u.cluster k).hedge.drops = (s.cluster k).hedge.drops + 1 ∧
        (u.core (coreOf k j.val)).q3 = (s.core (coreOf k j.val)).q3
      else (u.cluster k).hedge.drops = (s.cluster k).hedge.drops ∧
        (u.core (coreOf k j.val)).q3 = (s.core (coreOf k j.val)).q3 ++ [⟨v, (s.core (coreOf k j.val)).q3cnt, false⟩])

/-- A transfer phase starts once every cluster of the mask has committed HBAR with it, and ends once every phase
strand has committed HEND and no word is in flight (R280, R281, R285). HBAR and HEND are delivered with a latch
that is a free value of the model (log 5), and their bundle's end waits. -/
def Obligations.TransferPhasesStartAndEnd : Prop :=
  (∀ (s : State) (m : Mv) (v : V512), Ready s (.hbar m) v →
    let c := s.chargeSlot (.hbar m)
    let k := clusterOf s.cur
    let mask : W64 := BitVec.ofNat 64 (sval v)
    mask.getLsbD k.toNat = true → (s.cluster k).hedge.strand = none → c.me.pctx.divCtl = 3 → s.me.ui.active = false →
    ∃ t : State, exec (.hbar m) s = .next t.startEnd ∧ (t.cluster k).hedge.strand = some s.cur ∧
      (t.cluster k).hedge.mask = mask ∧ (t.cluster k).hedge.active = false ∧
      t.me.bs.waits = s.me.bs.waits ++ [.hbar] ∧ t.me.rf = s.me.rf) ∧
  (∀ (s : State) (k : ClusterId), ((setOf (s.cluster k).hedge.mask).all fun c =>
      s.barReady (s.cluster k).hedge.mask c) = true → s.barReady (s.cluster k).hedge.mask k = true →
    (s.cluster k).hedge.mask.getLsbD k.toNat = true →
    ∃ t, exec (.phaseStart k) s = .next t ∧
      ∀ j, (s.cluster k).hedge.mask.getLsbD j.toNat = true → (t.cluster j).hedge.active = true ∧
        (t.cluster j).hedge.arriving = [] ∧ (t.cluster j).press = 0 ∧
        (t.cluster j).hedge.strand = (s.cluster j).hedge.strand) ∧
  (∀ (s : State) (m : Mv) (v : V512), Ready s (.hend m) v →
    let c := s.chargeSlot (.hend m)
    let k := clusterOf s.cur
    c.inPhase = true → (s.cluster k).hedge.drops = 0 →
    ∃ t : State, exec (.hend m) s = .next t.startEnd ∧ (t.cluster k).hedge.hend = true ∧
      t.me.bs.waits = s.me.bs.waits ++ [.hend] ∧ t.me.rf = s.me.rf) ∧
  (∀ (s : State) (k : ClusterId), (s.cluster k).hedge.active = true → s.phaseOver (s.cluster k).hedge.mask = true →
    (∀ j, (s.cluster j).hedge.arriving = []) → (s.cluster k).hedge.mask.getLsbD k.toNat = true →
    ∃ t, exec (.phaseEnd k) s = .next t ∧ (t.cluster k).hedge.active = false ∧ (t.cluster k).hedge.strand = none ∧
      (t.cluster k).press = (s.cluster k).pressAsked)

/-! ## The matrix engine -/

/-- What every transfer of a tile needs: the ports and the checks of R189, no hazard, nothing to report. -/
def Sys2Proof.Claims.TransferReady (s : State) (t rb row0 : Nat) (load : Bool) (h : Handle) (x : Nat) (y : Int)
    (z : BitVec 32) : Prop :=
  s.me.mx.err = none ∧ s.me.mx.rowBytes t = some rb ∧ transferCheck s.me h rb x y row0 load = none ∧
  (∃ hv xv yv, s.me.port .mxH = some hv ∧ s.me.port .mxX = some xv ∧ s.me.port .mxY = some yv ∧
    h = BitVec.ofNat 128 hv.toNat ∧ x = sval xv ∧ y = sx (sval yv) 64) ∧
  z = BitVec.ofNat 32 ((s.me.port .mxZ).getD 0).toNat ∧
  (h.isSpad = true → (s.me.port .mxZ).isSome = true ∧ swzBad z = false)

/-- The rows a transfer moves. -/
def Sys2Proof.Claims.rowsFrom (row0 : Nat) : List Nat := (upto 32).filter fun r => decide (row0 ≤ r)

/-- MLD and MST set a transfer in flight, b6 taking the status word; mld:resume begins at RP; a load from the scratchpad
takes its bytes as the transfers before it in the pipe leave them; a hazard freezes the bundle; a failed transfer is
reported before anything else (R184, R185, R188 to R191). -/
def Obligations.TileTransfersStart : Prop :=
  (∀ (s : State) (resume : Bool) (m : Mv) (v : V512) (rb x : Nat) (y : Int) (h : Handle) (z : BitVec 32),
    Ready s (.mld resume m) v →
    let c := s.chargeSlot (.mld resume m)
    let t := tileOf v.toNat
    let row0 := if resume then c.me.mx.rpAfter t else 0
    let l := rowsFrom row0
    let o : Transfer := ⟨true, t, c.me.mx.tileAfter t, h, x, y, rb, z, row0, 0, c.me.cl, [], none, none, []⟩
    let rp (q : Matrix) : Matrix := if resume || (q.xfer.any fun o => o.load && o.tile == t) then q else q.setRp t 0
    c.me.mx.hazard .xfer [] [t] = false → TransferReady c t rb row0 true h x y z →
    (h.isSpad = true → exec (.mld resume m) s = .next ((c.onMx rp).startTransfer { o with
      data := loadSpad c.me.pipeDone z rb x y l o.data
      bad := badRow c.me.pipeDone z rb x y l }).mxStatus.flushDeferred) ∧
    (h.isSpad = false → ∀ e, c.settle false = some e →
      let r := loadRows h rb x y l e o.data
      exec (.mld resume m) s = .next ((r.1.engineRead.onMx rp).startTransfer { o with
        data := r.2.1, bad := r.2.2 }).mxStatus.flushDeferred)) ∧
  (∀ (s : State) (m : Mv) (v : V512) (rb x : Nat) (y : Int) (h : Handle) (z : BitVec 32), Ready s (.mst m) v →
    let c := s.chargeSlot (.mst m)
    let t := tileOf v.toNat
    c.me.mx.hazard .xfer [t] [] = false → TransferReady c t rb 0 false h x y z →
    ∀ e, (if h.isSpad then some c else c.settle true) = some e →
    let r := e.storeRows t h rb x y
    let o : Transfer := ⟨false, t, Vector.replicate 32 0, h, x, y, rb, z, 0, 0, c.me.cl, [], none, none, []⟩
    exec (.mst m) s = .next (if h.isSpad
      then c.startTransfer { o with rowTime := (if 16 ≤ t then 2 else 1) * c.me.cl }
      else r.1.endRelFence.startTransfer { o with undo := r.2 }).mxStatus.flushDeferred) ∧
  (∀ (s : State) (resume : Bool) (m : Mv) (v : V512), Ready s (.mld resume m) v →
    (s.chargeSlot (.mld resume m)).me.mx.hazard .xfer [] [tileOf v.toNat] = true →
    exec (.mld resume m) s = .next (s.freeze [.mx] s.me.bs.slot)) ∧
  (∀ (s : State) (m : Mv) (v : V512) (e : Cause) (a : W64), Ready s (.mst m) v →
    (s.chargeSlot (.mst m)).me.mx.hazard .xfer [tileOf v.toNat] [] = false → s.me.mx.err = some (e, a) →
    exec (.mst m) s = .next ((s.applyReport .matrix).fault e (some a) s.me.bs.slot true)) ∧
  (∀ (k : Core) (z : BitVec 32) (rb x : Nat) (y : Int) (row0 : Nat) (d : MTile) (r : Fin 32),
    (loadSpad k z rb x y (rowsFrom row0) d)[r] = if row0 ≤ r.val
      then BitVec.ofNat 256 (setBits d[r].toNat 0 (8 * rb) (k.spadReadZ z (rowOff x y r.val).toNat rb)) else d[r])

/-- MMAC, MZERO, MHAD, MDRAIN, MCFG, MLDC and MWAIT: what each sets in flight, its times in matrix cycles; MCFG copies
the formats once no result is pending in their registers, MLDC refuses a stale handle, MDRAIN reserves 32
entries (R184, R186, R187, R192, R193, R196, R197, R201). -/
def Obligations.MatrixOperationsStart : Prop :=
  (∀ (s : State) (p : Pw) (m : Mv) (v a b ka kb : V512) (g : TileCfg), Ready s (.mmac p m) v →
    let c := s.chargeSlot (.mmac p m)
    let acc := nameIndex v.toNat
    let ta := tileOf a.toNat
    let tb := tileOf b.toNat
    c.me.port .mxA = some a → c.me.port .mxB = some b → c.me.port .mxCa = some ka → c.me.port .mxCb = some kb →
    c.me.mx.hazard .arr [ta, tb, 16 + acc] [16 + acc] = false → c.me.mx.err = none → c.me.mx.cfg = some g →
    ta < 8 → 8 ≤ tb → tb < 16 →
    let occ := if fmtWidth g.fa ≤ 4 ∧ fmtWidth g.fb ≤ 4 then 4 else 8
    exec (.mmac p m) s = .next (c.startArray acc (.mmac (pwSteps p) ta tb ka kb g) occ (occ + 4)).mxStatus.flushDeferred) ∧
  (∀ (s : State) (m : Mv) (v : V512), Ready s (.mzero m) v →
    let c := s.chargeSlot (.mzero m)
    let acc := nameIndex v.toNat
    c.me.mx.hazard .arr [] [16 + acc] = false → c.me.mx.err = none →
    exec (.mzero m) s = .next (c.startArray acc .mzero 1 1).mxStatus.flushDeferred) ∧
  (∀ (s : State) (m : Mv) (v : V512), Ready s (.mhad m) v →
    let c := s.chargeSlot (.mhad m)
    let acc := nameIndex v.toNat
    c.me.mx.hazard .arr [16 + acc] [16 + acc] = false → c.me.mx.err = none →
    exec (.mhad m) s = .next (c.startArray acc .mhad 10 10).mxStatus.flushDeferred) ∧
  (∀ (s : State) (q1 : Bool) (m : Mv) (v : V512) (g : TileCfg), Ready s (.mdrain q1 m) v →
    let c := s.chargeSlot (.mdrain q1 m)
    let acc := nameIndex v.toNat
    let k := c.me
    let start := Nat.max k.mx.clk k.mx.drnFree
    k.mx.hazard .drn [16 + acc] [] = false → k.mx.err = none → k.mx.cfg = some g →
    (if q1 then k.q1.length + k.resv1 else k.q0.length + k.resv0) ≤ 32 →
    ∃ t : State, exec (.mdrain q1 m) s = .next t.mxStatus.flushDeferred ∧ t.me.mx.drn = k.mx.drn ++
        [⟨acc, q1, g, start, 0, start + k.mxCycles 36, 0, k.pctx.divMat, k.pctx.divCtl⟩] ∧
      t.me.mx.drnFree = start + k.mxCycles 32 ∧ t.me.resv0 = k.resv0 + (if q1 then 0 else 32) ∧
      t.me.resv1 = k.resv1 + (if q1 then 32 else 0) ∧ t.me.rf = s.me.rf ∧ t.mem = c.mem) ∧
  (∀ (s : State) (m : Mv) (v : V512), Ready s (.mcfg m) v →
    let c := s.chargeSlot (.mcfg m)
    let fa := c.me.fRead (bits (sval v) 3 0)
    let fb := c.me.fRead (bits (sval v) 7 4)
    let fd := c.me.fRead (bits (sval v) 11 8)
    (∀ f ∈ s.me.fl, ∀ n ∈ f.names, n ∉ mcfgNames (sval v)) → (∀ b ∈ s.me.bad, b.reg.toNat ∉ mcfgNames (sval v)) →
    c.me.mx.xfer = [] → c.me.mx.arr = [] → c.me.mx.drn = [] → c.me.mx.err = none → sval v < 2 ^ 12 →
    exec (.mcfg m) s = .next (if fa.consistent && fb.consistent && fd.consistent
      then (c.onMx fun x => { x with cfg := some ⟨BitVec.ofNat 12 (sval v), fa, fb, fd, pmaxOf fa fb⟩ }).mxStatus.flushDeferred
      else s.fault .fmtreg none s.me.bs.slot true)) ∧
  (∀ (s : State) (m : Mv) (v : V512) (f : Flight) (n : Nat), Ready s (.mcfg m) v → f ∈ s.me.fl →
    s.me.ofBundle f.id = false → n ∈ f.names → n ∈ mcfgNames (sval v) → Freezes (.mcfg m) s) ∧
  (∀ (s : State) (m : Mv) (v hv xv : V512), Ready s (.mldc m) v →
    let c := s.chargeSlot (.mldc m)
    let t := s.me.time + 6 * c.me.cl
    c.me.mx.err = none → c.me.port .mxH = some hv → c.me.port .mxX = some xv →
    Handle.isSpad (BitVec.ofNat 128 hv.toNat) = true → Handle.v (BitVec.ofNat 128 hv.toNat) = true →
    Handle.ctx (BitVec.ofNat 128 hv.toNat) = s.me.ctx.toNat → sval xv % 64 = 0 → sval xv < 0x80000 →
    exec (.mldc m) s = .next (((c.onMx fun x => { x with
      mldc := x.mldc ++ [(nameIndex v.toNat, BitVec.ofNat 512 (c.me.spadBefore (sval xv) 64), t)] }).schedule t
        (.mldcLand s.cur)).mxStatus.flushDeferred)) ∧
  (∀ (s : State) (m : Mv) (v hv xv : V512), Ready s (.mldc m) v → s.me.mx.err = none → s.me.port .mxH = some hv →
    s.me.port .mxX = some xv → Handle.isSpad (BitVec.ofNat 128 hv.toNat) = true →
    Handle.v (BitVec.ofNat 128 hv.toNat) = false ∨ Handle.ctx (BitVec.ofNat 128 hv.toNat) ≠ s.me.ctx.toNat →
    exec (.mldc m) s = .next (s.fault .hstale none s.me.bs.slot true)) ∧
  (∀ (s : State) (m : Mv) (v : V512), Ready s (.mwait m) v →
    let c := s.chargeSlot (.mwait m)
    c.me.mx.err = none →
    exec (.mwait m) s = .next (if c.me.mx.writtenBy none (tileOf v.toNat) || c.me.mx.readBy none (tileOf v.toNat)
      then s.freeze [.mx] s.me.bs.slot else c.mxStatus.flushDeferred))

/-- What is in flight retires: a transfer issues a row a turn; a load's rows reach its tile with RP behind each; a
transfer that is over leaves the pipe; a stopped load records the faulty row in RP and RTILE and reports it; an array
operation writes its accumulator: MZERO zeros, MHAD every row's five butterfly stages, MMAC the promotions of each
cell's windows in turn, with every product truncated toward zero to a multiple of 2^(PMAX - 31) (R193, R194, R196);
drained rows enter their queue in order, each with its codes under the scale code that R198 chooses, its scale codes,
count bytes, row and accumulator; a scale load writes its c register (R184, R190 to R200). -/
def Obligations.MatrixOperationsRetire : Prop :=
  (∀ (s : State) (c : CoreId) (o : Transfer), (s.core c).mx.xfer = [o] → o.stop = none → o.out = [] → 32 ≤ o.next →
    o.ready ≤ s.now →
    exec (.transferRetire c) s = .next ((s.onCore c fun k => { k with mx := { k.mx with xfer := [] } }).lsAdvance c)) ∧
  (∀ (s : State) (c : CoreId) (o : Transfer), (s.core c).mx.xfer = [o] → o.stop = none → o.out = [] → o.next < 32 →
    o.ready ≤ s.now → (s.core c).mx.xferFree ≤ s.now →
    (Handle.isSpad o.handle = true ∨ (Handle.v o.handle = true ∧ s.noSlots c 1 = false)) →
    ∃ t q u, exec (.transferRetire c) s = .next t ∧ (t.core c).mx.xfer = [q] ∧ q.next = o.next + 1 ∧
      q.out = [(o.next, u, s.now)] ∧ s.now + 4 * (s.core c).cl ≤ u ∧ t.mem = s.mem) ∧
  (∀ (k : Core) (o : Transfer) (r u w now : Nat), o.load = true → o.out = [(r, u, w)] → u ≤ now → o.bad = none →
    o.tile < 16 → r < 32 →
    let p := o.land now false k
    p.1 = { o with out := [] } ∧ p.2.mx.rpOf o.tile = r + 1 ∧ p.2.rf = k.rf ∧ p.2.spad = k.spad ∧
    (∀ j : Fin 32, (p.2.mx.mt o.tile)[j] = if j.val = r then o.data[j] else (k.mx.mt o.tile)[j]) ∧
    ∀ i, i < 16 → i ≠ o.tile → p.2.mx.mt i = k.mx.mt i) ∧
  (∀ (s : State) (c : CoreId) (o : Transfer) (r : Nat) (e : Cause), (s.core c).mx.xfer = [o] → o.stop = some (r, e) →
    o.out = [] → o.load = true →
    exec (.transferStop c) s = .next ((s.onCore c fun k => { k with mx := { k.mx.setRp o.tile r with
      xfer := []
      rtile := o.tile
      err := some (e, BitVec.ofInt 64 (rowOff o.off o.stride r)) } }).lsAdvance c)) ∧
  (∀ (s : State) (c : CoreId) (o : ArrayOp), (s.core c).mx.arr = [o] → o.retire ≤ (s.core c).mx.clk → o.ran = none →
    ∃ t, exec (.arrayRetire c) s = .next t ∧ (t.core c).mx.arr = [] ∧
      (t.core c).mx.at o.acc = (o.run (s.core c).mx).1.at o.acc ∧
      (t.core c).pctx.ncs = ncsRaise (s.core c).pctx.ncs (o.run (s.core c).mx).2 ∧
      (∀ a, a < 4 → a ≠ o.acc % 4 → (t.core c).mx.at a = (s.core c).mx.at a) ∧
      (t.core c).mx.m = (s.core c).mx.m ∧ (o.kind = .mzero → (t.core c).mx.at o.acc = Vector.replicate 32 0)) ∧
  (∀ (x : Matrix) (o : ArrayOp) (i : Fin 32), o.kind = .mhad →
    let cell (j : Nat) : Nat := getBytes ((o.run x).1.at o.acc)[i].toNat (4 * j) 4
    ∃ w : Nat → Nat → Nat, (∀ e, e < 32 → w 0 e = getBytes (x.at o.acc)[i].toNat (4 * e) 4) ∧
      (∀ st e, st < 5 → e < 32 → bit e st = false →
        let u := fp32.value (w st e)
        let v := fp32.value (w st (e + 2 ^ st))
        w (st + 1) e = (fAdd fp32 .rne u v).1 ∧ w (st + 1) (e + 2 ^ st) = (fAdd fp32 .rne u v.neg).1 ∧
        ∀ n, (fAdd fp32 .rne u v).2.getLsbD n = true → (o.run x).2.getLsbD n = true) ∧
      ∀ e, e < 32 → cell e = w 5 e % 2 ^ 32) ∧
  (∀ (x : Matrix) (o : ArrayOp) (p a b : Nat) (ka kb : V512) (g : TileCfg) (i j : Fin 32),
    o.kind = .mmac p a b ka kb g → (p = 1 ∨ p = 2 ∨ p = 4 ∨ p = 8 ∨ p = 16) →
    let vx (k : Nat) : FVal := g.fa.value (narrowAt g.fa (x.mt a)[i].toNat k)
    let vy (k : Nat) : FVal := g.fb.value (narrowAt g.fb (x.mt b)[j].toNat k)
    ∃ w : Nat → Nat, w 0 = getBytes (x.at o.acc)[i].toNat (4 * j.val) 4 ∧
      (∀ n, n < 32 / p →
        let sa := getBytes ka.toNat (2 * i.val + n * p / 16) 1
        let sb := getBytes kb.toNat (2 * j.val + n * p / 16) 1
        let r := promote g.pmax sa sb (w n)
          (winSum (g.pmax - 31) sa sb ((upto p).map fun k => (vx (n * p + k), vy (n * p + k))))
        w (n + 1) = r.1 ∧ ∀ q, r.2.getLsbD q = true → (o.run x).2.getLsbD q = true) ∧
      getBytes ((o.run x).1.at o.acc)[i].toNat (4 * j.val) 4 = w (32 / p) % 2 ^ 32) ∧
  (∀ (e : Int) (ka kb : Nat) (l : List (FVal × FVal)), winSum e ka kb l =
    if ka = 255 ∨ kb = 255 then ⟨0, some .nan, Flags.sn⟩ else l.foldl (fun w p => winStep e w p.1 p.2) ⟨0, none, 0⟩) ∧
  (∀ (e f g : Int) (w : Win) (a b : Bool) (m n : Nat),
    (∀ z, (winStep e w .nan z).sp = some .nan ∧ (winStep e w z .nan).sp = some .nan) ∧
    (m = 0 → winStep e w (.inf a) (.fin b m f) = { w with sp := some .nan, fl := w.fl ||| Flags.nv } ∧
      winStep e w (.fin b m f) (.inf a) = { w with sp := some .nan, fl := w.fl ||| Flags.nv }) ∧
    (m ≠ 0 → w.sp = none → winStep e w (.inf a) (.fin b m f) = { w with sp := some (.inf (a != b)) }) ∧
    (let t := if 0 ≤ f + g - e then m * n * 2 ^ (f + g - e).toNat else m * n / 2 ^ (e - f - g).toNat
     winStep e w (.fin a m f) (.fin b n g) = { w with win := w.win + if a = b then (t : Int) else -(t : Int) })) ∧
  (∀ (pmax : Int) (ka kb acc : Nat) (w : Win), -(2 ^ 39 : Int) ≤ w.win → w.win < (2 ^ 39 : Int) →
    (w.sp = some .nan → promote pmax ka kb acc w = (0x7FC00000, w.fl)) ∧
    (∀ s, w.sp = some (.inf s) → (promote pmax ka kb acc w).1 = (fAdd fp32 .rne (fp32.value acc) (.inf s)).1) ∧
    (w.sp = none → (promote pmax ka kb acc w).1 = (fAdd fp32 .rne (fp32.value acc)
      (.fin (decide (w.win < 0)) w.win.natAbs (pmax - 31 + ka + kb - 254))).1)) ∧
  (∀ (s : State) (c : CoreId) (d : Drain), (s.core c).mx.drn = [d] → d.next < 32 → d.q1 = false →
    d.rowAt d.next ≤ (s.core c).mx.clk → (s.core c).mx.clk < d.rowAt (d.next + 1) →
    ∃ t, exec (.drainRowPush c) s = .next t ∧ (t.core c).q0 = (s.core c).q0 ++
        [⟨(drainEntry d.cfg.fd d.acc d.next (((s.core c).mx.at d.acc)[d.next % 32]'(Nat.mod_lt _ (by decide)))).1, 0, false⟩] ∧
      (t.core c).resv0 = (s.core c).resv0 - 1 ∧ (t.core c).q1 = (s.core c).q1) ∧
  (∀ (F : Fmt) (acc r : Nat) (row : BitVec 1024), F.consistent = true → acc < 4 → r < 32 →
    let e := (drainEntry F acc r row).1.toNat
    let cell (j : Nat) : Nat := getBytes row.toNat (4 * j) 4
    let blk (b : Nat) : List FVal := (upto 16).map fun j => fp32.value (cell (16 * b + j))
    (∀ j, j < 32 → narrowAt F e j =
      (encode F (bit (cell j) 31) (fp32.value (cell j)) (drainScale F (blk (j / 16)))).code % 2 ^ F.width) ∧
    (∀ b, b < 2 → getBytes e (32 + b) 1 = drainScale F (blk b) ∧
      getBytes e (34 + b) 1 = 16 * Nat.min (drainCounts F (blk b) (drainScale F (blk b))).1 15
        + Nat.min (drainCounts F (blk b) (drainScale F (blk b))).2 15) ∧
    getBytes e 36 1 = r ∧ getBytes e 37 1 = acc ∧ e < 2 ^ 304) ∧
  (∀ (F : Fmt) (xs : List FVal), let clamped (k : Nat) : Nat := (drainCounts F xs k).1
    let small (k : Nat) : Nat := (drainCounts F xs k).2
    ∃ s0, s0 ≤ 254 ∧ (∀ k, k < s0 → clamped k ≠ 0) ∧ (clamped s0 = 0 ∨ s0 = 254) ∧
      drainScale F xs = if 1 ≤ s0 ∧ clamped (s0 - 1) ≤ F.sbud ∧ small (s0 - 1) < small s0 then s0 - 1 else s0) ∧
  (∀ (F : Fmt) (xs : List FVal) (k : Nat),
    (drainCounts F xs k).1 = (xs.filter fun x => match x with
      | .fin s _ _ => (encode F s x k).ovf
      | _ => false).length ∧
    (drainCounts F xs k).2 = (xs.filter fun x => match x with
      | .fin s m _ => m != 0 && (match Fmt.value F (encode F s x k).code with
        | .fin _ n g => dyGt ((fmtMin F).1 * 2 ^ F.uth) (fmtMin F).2 n g
        | _ => false)
      | _ => false).length) ∧
  (∀ (s : State) (c : CoreId) (d : Drain), (s.core c).mx.drn = [d] → 32 ≤ d.next → d.retire ≤ (s.core c).mx.clk →
    ∃ t, exec (.drainRetire c) s = .next t ∧ (t.core c).mx.drn = [] ∧
      (t.core c).pctx.ncs = ncsRaise (s.core c).pctx.ncs d.flags) ∧
  (∀ (s : State) (c : CoreId) (i : Fin 8) (d : V512) (t : Nat), (s.core c).mx.mldc = [(i.val, d, t)] → t ≤ s.now →
    ∃ u, exec (.mldcLand c) s = .next u ∧ (u.core c).mx.mldc = [] ∧ (u.core c).rf.c = (s.core c).rf.c.set i.val d ∧
      (u.core c).rf.g = (s.core c).rf.g ∧ (u.core c).rf.v = (s.core c).rf.v)

/-! ## The Sedge rule engine, the copy and gather engines -/

/-- The sg triggers (R208 to R211, R219): sg.lim and sg.scl write their per-context value, sg.pass begins a pass of
the grammar as memory holds it, sg.stat reads under K into b7, sg.wait freezes while a pass runs; and what the
pass does: lines arrive, an engine cycle issues symbols until its width, a missing line, a taken bank, a full q2 or a
fault stops it, each with its own effect, a row enters q2 in order, the pass ends or fails with its flags and counts
(R211 to R216, R220). -/
def Obligations.SedgePassesRun : Prop :=
  (∀ (s : State) (m : Mv) (v : V512), Ready s (.sgLim m) v → s.me.sg.err = none →
    exec (.sgLim m) s = .next (if sval v = 0 ∨ 31 < sval v then s.fault .illopd none s.me.bs.slot true
      else (((s.chargeSlot (.sgLim m)).onMe fun k => k.onPctx fun p => { p with lim := sval v }).onMe fun k =>
        k.setLatch 7 k.sgStatus).flushDeferred)) ∧
  (∀ (s : State) (m : Mv) (v : V512), Ready s (.sgScl m) v → s.me.sg.err = none →
    exec (.sgScl m) s = .next (if 2 ^ 32 ≤ sval v then s.fault .illopd none s.me.bs.slot true
      else (((s.chargeSlot (.sgScl m)).onMe fun k => k.onPctx fun p => { p with scl := BitVec.ofNat 32 (sval v) }).onMe
        fun k => k.setLatch 7 k.sgStatus).flushDeferred)) ∧
  (∀ (s : State) (m : Mv) (v hv xv bv : V512), Ready s (.sgPass m) v → s.me.sg.err = none → s.me.sg.pass = none →
    s.me.port .sgH = some hv → s.me.port .sgX = some xv → s.me.port .sgXb = some bv →
    let h : Handle := BitVec.ofNat 128 hv.toNat
    h.isSpad = false → sval v < 2 ^ 32 → h.v = true → h.ctx = s.me.ctx.toNat → sval xv % 16 = 0 → sval bv % 64 = 0 →
    sval xv + 16 ≤ h.size → sval bv < 0x80000 → h.pr = true →
    ∃ (t : State) (p : Pass), exec (.sgPass m) s = .next t ∧ t.me.sg.pass = some p ∧ p.handle = h ∧ p.off = sval xv ∧
      p.xb = sval bv ∧ p.idx = BitVec.ofNat 32 (sval v) ∧ p.lim = s.me.pctx.lim ∧ p.scl = s.me.pctx.scl ∧ p.pos = 0 ∧
      p.rules = [] ∧ p.opened = none ∧ p.asked ≤ 1 ∧ p.since = s.nextId ∧
      (s.reqsOf s.cur = [] → p.pend = false) ∧ t.me.rf = s.me.rf ∧ t.me.q2 = s.me.q2) ∧
  (∀ (s : State) (f : SgField) (m : Mv) (v : V512), Ready s (.sgStat f m) v → s.me.sg.err = none →
    exec (.sgStat f m) s = .next (if m.k then ((s.chargeSlot (.sgStat f m)).onMe fun k => k.setLatch 7 (match f with
        | .state => k.sgStatus
        | .syms => (match s.me.sg.pass with | some p => p.pos | none => s.me.sg.syms)
        | .rows => (match s.me.sg.pass with | some p => p.rows.toNat | none => s.me.sg.rows.toNat))).flushDeferred
      else s.fault .illopd none s.me.bs.slot true)) ∧
  (∀ (s : State) (m : Mv) (v : V512), Ready s (.sgWait m) v → s.me.sg.err = none →
    (s.me.sg.pass = none → exec (.sgWait m) s = .next ((s.chargeSlot (.sgWait m)).onMe fun k =>
      k.setLatch 7 k.sgStatus).flushDeferred) ∧
    (∀ p, s.me.sg.pass = some p → p.stalled = false → exec (.sgWait m) s = .next (s.freeze [.sg] s.me.bs.slot))) ∧
  (∀ (s : State) (c : CoreId) (p : Pass) (n t w : Nat) (l : BitVec 1024) (b : Option Cause) (hit : Bool),
    (s.core c).sg.pass = some p → p.pend = false → p.flying = [(n, t, w)] → t ≤ s.now →
    p.saved = [(n, l, b, hit)] → p.lines = [] →
    ∃ q : Pass, exec (.sedgeLineArrive c) s = .next ((s.onCore c fun k => { k with sg := { k.sg with
        pass := some q } }).lsAdvance c) ∧ q.flying = [] ∧ q.saved = [] ∧ q.line n = some (l, b) ∧ q.pos = p.pos ∧
      q.rules = p.rules ∧ q.pushes = p.pushes) ∧
  (∀ (s : State) (c : CoreId), (s.events.any fun e => decide (e.1 ≤ s.now) && e.2 == .gatherOpComplete c) = true →
    exec (.sedgeIssueCycle c) s = .next (s.schedule s.now (.sedgeIssueCycle c))) ∧
  (∀ (s : State) (c : CoreId) (p : Pass),
    (s.events.any fun e => decide (e.1 ≤ s.now) && e.2 == .gatherOpComplete c) = false → (s.core c).sg.pass = some p →
    p.issued + 8 ≤ p.asked → p.issuing (s.core c).sg.clk = true → p.stalled = false → p.pushes = [] → p.fail = none →
    let p1 := if p.hdrRead then p else p.readHeader
    let w := issueWidth (s.cluster (clusterOf c)).press p.skip
    let taken := ((s.core c).slot3.filter fun e => e.1 == (s.core c).slotCycle s.now).map (·.2)
    let q := p1.issue (s.core c) taken w
    p1.hdrRead = true →
    ∃ u : State, (u.core c).sg.pass = some { q with stalled := q.stalled && (s.core c).q2Full, skip := !p.skip } ∧
      (u.core c).q2 = (s.core c).q2 ∧ (u.core c).rf = (s.core c).rf ∧ u.mem = s.mem ∧
      (q.fail = none → exec (.sedgeIssueCycle c) s = .next u) ∧
      (q.fail.isSome = true → q.pushes = [] → exec (.sedgeIssueCycle c) s =
        .next ((u.lsAdvance c).schedule (u.lsAdvance c).now (.sedgePassFail c)))) ∧
  (∀ (p : Pass) (d : BitVec 1024), p.line 0 = some (d, none) →
    let h := getBytes d.toNat (p.off % 128) 16
    (bits h 127 56 ≠ 0 ∨ bits h 55 32 = 0 → p.readHeader.fail = some (.illopd, BitVec.ofNat 64 p.off)) ∧
    (bits h 127 56 = 0 → bits h 55 32 ≠ 0 →
      (Fmt.consistent (BitVec.ofNat 32 h) = false → p.readHeader.fail = some (.fmtreg, BitVec.ofNat 64 p.off)) ∧
      (Fmt.consistent (BitVec.ofNat 32 h) = true →
        p.readHeader = { p with hdrRead := true, tfmt := BitVec.ofNat 32 h, nsym := bits h 55 32 }))) ∧
  (∀ (p : Pass) (k : Core) (taken : List Nat), p.issue k taken 0 = p) ∧
  (∀ (p : Pass) (k : Core) (taken : List Nat) (n : Nat), p.finish = none → p.fail = none →
    let o := p.symOff p.pos
    let stop (e : Cause) : Pass := { p with fail := some (e, BitVec.ofNat 64 o) }
    (Handle.size p.handle < o + 4 → p.issue k taken (n + 1) = stop .hbound) ∧
    (o + 4 ≤ Handle.size p.handle →
      (p.line (p.lineOf o) = none → p.issue k taken (n + 1) = p) ∧
      (∀ d e, p.line (p.lineOf o) = some (d, some e) → p.issue k taken (n + 1) = stop e) ∧
      (∀ d, p.line (p.lineOf o) = some (d, none) →
        let y := p.codeOf (symOf (getBytes d.toNat (o % 128) 4))
        (∀ e, p.symFault y = some e → p.issue k taken (n + 1) = stop e) ∧
        (p.symFault y = none →
          (y = .endRow → k.q2Full = true → p.issue k taken (n + 1) = { p with stalled := true }) ∧
          (∀ col w, y = .term col w →
            let a := p.xb + 64 * col
            (a / 64 % 16 ∈ taken → p.issue k taken (n + 1) = p) ∧
            (a / 64 % 16 ∉ taken → p.issue k taken (n + 1) =
              (p.run k.sg.clk y (BitVec.ofNat 512 (k.spadSeen.read a 64))).issue k (a / 64 % 16 :: taken) n)) ∧
          ((∀ col w, y ≠ .term col w) → (y = .endRow → k.q2Full = false) →
            p.issue k taken (n + 1) = (p.run k.sg.clk y 0).issue k taken n))))) ∧
  (∀ (s : State) (c : CoreId) (p : Pass) (e : QEntry) (t : Nat) (r : List (QEntry × Nat)), (s.core c).sg.pass = some p →
    p.pushes = (e, t) :: r → t ≤ (s.core c).sg.clk → (s.core c).q2.length < 64 → (s.core c).bs.dropping = false →
    ∃ u q, exec (.sedgeRowPush c) s = .next u ∧ (u.core c).q2 = (s.core c).q2 ++ [e] ∧
      (u.core c).sg.pass = some q ∧ q.pushes = r) ∧
  (∀ (s : State) (c : CoreId) (p : Pass), (s.core c).sg.pass = some p →
    (p.ended (s.core c).sg.clk = true → exec (.sedgePassEnd c) s = .next (s.endPass c p none)) ∧
    (p.fail.isSome = true → p.pushes = [] → exec (.sedgePassFail c) s = .next (s.endPass c p p.fail)) ∧
    ∀ e, ∃ t : State, s.endPass c p e = t.lsAdvance c ∧ (t.core c).sg.pass = none ∧ (t.core c).sg.err = e ∧
        (t.core c).sg.passes = (s.core c).sg.passes + 1 ∧ (t.core c).sg.syms = p.pos ∧ (t.core c).sg.rows = p.rows ∧
        (t.core c).pctx.ncs = ncsRaise (s.core c).pctx.ncs p.flags ∧ t.mem = s.mem) ∧
  (∀ (p : Pass) (slot d : Nat), p.malformed (.define slot d) = false →
    p.symFault (.define slot d) = if d = 0 then some .illopd else if p.lim < d then some .ruledepth else none) ∧
  (∀ (p : Pass) (slot : Nat), p.malformed (.ref slot) = false →
    p.symFault (.ref slot) = if Tbl.get none p.rules slot = none then some .ruleundef else none) ∧
  (∀ (p : Pass) (col w : Nat), p.malformed (.term col w) = false →
    p.symFault (.term col w) = if 0x80000 < p.xb + 64 * col + 64 then some .hbound else none) ∧
  (∀ (p : Pass) (y : Sym), p.malformed y = true → p.symFault y = some .illopd) ∧
  (∀ (p : Pass) (now slot d : Nat) (x : V512),
    (∀ y, (p.run now y x).pos = p.pos + 1) ∧
    (p.run now (.define slot d) x).opened = some (slot, d) ∧ (p.run now (.define slot d) x).acc = 0 ∧
    (p.run now (.define slot d) x).dep = 1 ∧ Tbl.get none (p.run now (.define slot d) x).rules slot = none ∧
    (∀ col w, let v := decodeNarrow p.tfmt .rne w 127;
      (p.opened = none → (p.run now (.term col w) x).row = (fusedRow v.1 x p.row).1 ∧
        (p.run now (.term col w) x).acc = p.acc ∧ (p.run now (.term col w) x).rowUsed = true) ∧
      (p.opened.isSome = true → (p.run now (.term col w) x).acc = (fusedRow v.1 x p.acc).1 ∧
        (p.run now (.term col w) x).row = p.row) ∧
      (p.run now (.term col w) x).flags = p.flags ||| v.2 ||| (fusedRow v.1 x p.target).2) ∧
    (∀ r, p.opened = none → Tbl.get none p.rules slot = some r →
      (p.run now (.ref slot) x).row = (addRow p.row r.value).1 ∧ (p.run now (.ref slot) x).rowUsed = true) ∧
    (∀ r, p.opened.isSome = true → Tbl.get none p.rules slot = some r →
      (p.run now (.ref slot) x).acc = (addRow p.acc r.value).1 ∧
      (p.run now (.ref slot) x).dep = Nat.max p.dep (r.depth + 1)) ∧
    (∀ n e, p.opened = some (n, e) → Tbl.get none (p.run now .endRule x).rules n = some ⟨p.acc, e⟩ ∧
      (p.run now .endRule x).opened = none) ∧
    (let t := Nat.max (now + 6) (p.lastPush + 1);
      (p.run now .endRow x).pushes = p.pushes ++
        [(⟨(scaleRow p.row p.scl).1, BitVec.ofNat 16 p.idx.toNat, false⟩, t)] ∧ (p.run now .endRow x).lastPush = t) ∧
    (p.run now .endRow x).idx = p.idx + 1 ∧ (p.run now .endRow x).rows = p.rows + 1 ∧
    (p.run now .endRow x).row = 0 ∧ (p.run now .endRow x).rowUsed = false ∧
    (p.run now .endPass x).finish = some (now + 7))

/-- The copy engine (R170 to R177, R410): cp.go starts a copy or leaves it pending, each line's elements enter the
scratchpad at its reply, the last one completes the copy; cp.fence empties the record cache, cp.stat reads the
status word, cp.uiv sets the handler. The gather engine (R179): ga.gth and ga.sct queue an operation of 16 n lanes
after the checks, ga.stat reads the status word, ga.mode sets GMODE; an operation that completes has written its words
and counts, one that stops at a lane is reported. Of several failures the first is kept (the model's choice, log 43). -/
def Obligations.CopiesAndGathersRun : Prop :=
  (∀ (s : State) (out : Bool) (m : Mv) (v hv rv pv zv : V512), Ready s (.cpGo out m) v → s.me.cp.err = none →
    s.me.cp.pending = none → s.me.port .cpH = some hv → s.me.port .cpRec = some rv → s.me.port .cpSp = some pv →
    s.me.port .cpZ = some zv →
    let h : Handle := BitVec.ofNat 128 hv.toNat
    let z : BitVec 32 := BitVec.ofNat 32 zv.toNat
    let c := s.chargeSlot (.cpGo out m)
    let irq := bit v.toNat 0
    h.isSpad = false → sval rv < 2 ^ 56 → swzBad z = false → (irq = true → s.me.ui.target.isSome = true) → h.v = true →
    h.ctx = s.me.ctx.toNat → sval rv % 64 = 0 → sval pv % 64 = 0 → sval pv < 0x80000 →
    ∀ e, c.settle out = some e →
    let live := match e.me.cp.active with | some y => !y.doomed | none => true
    let r := e.makeCopy out irq h (BitVec.ofNat 64 (sval rv)) (sval pv) z live
    exec (.cpGo out m) s = .next ((if r.1.me.cp.active.isNone then r.1.startCopy r.1.cur r.2 r.1.now
      else r.1.onMe fun k => { k with cp := { k.cp with pending := some r.2 } }).cpLatch.flushDeferred)) ∧
  (∀ (s : State) (m : Mv) (v : V512), Ready s (.cpFence m) v → s.me.cp.err = none →
    exec (.cpFence m) s = .next ((s.chargeSlot (.cpFence m)).onMe fun k =>
      { k with cp := { k.cp with cache := [] } }).cpLatch.flushDeferred) ∧
  (∀ (s : State) (wait : Bool) (m : Mv) (v : V512), Ready s (.cpStat wait m) v → s.me.cp.err = none →
    exec (.cpStat wait m) s = .next (
      if wait && (s.me.cp.active.isSome || s.me.cp.pending.isSome) then s.freeze [.copy] s.me.bs.slot
      else if m.k then (s.chargeSlot (.cpStat wait m)).cpLatch.flushDeferred else s.fault .illopd none s.me.bs.slot true)) ∧
  (∀ (s : State) (m : Mv) (v : V512), Ready s (.cpUiv m) v → s.me.cp.err = none →
    exec (.cpUiv m) s = .next (if sval v < 2 ^ 63 ∧ sval v % 32 = 0 ∧ sval v % 2 ^ 56 ≠ 0
      then ((s.chargeSlot (.cpUiv m)).onMe fun k =>
        { k with ui := { k.ui with target := some (Target.ofAbs (sval v)) } }).flushDeferred
      else s.fault .illopd none s.me.bs.slot true)) ∧
  (∀ (s : State) (c : CoreId) (y : Copy) (l : CopyLine) (u : Nat), (s.core c).cp.active = some y →
    y.record = none → y.fail = none → y.lines = [l] → l.due = some u → u ≤ s.now → l.err = none →
    ∃ t, exec (.copyLineReply c) s = .next t ∧
      (t.core c).spad = l.writes.foldl (fun p w => p.write w.1 w.2.1 w.2.2) (s.core c).spad ∧
      (t.core c).cp.active = some { y with lines := [] } ∧ (t.core c).rf = (s.core c).rf ∧ t.mem = s.mem) ∧
  (∀ (s : State) (c : CoreId) (y : Copy) (l : CopyLine), (s.core c).cp.active = some y → y.lines = [l] →
    y.record = none → y.fail = none → l.due = none → y.next ≤ s.now → s.noSlots c 1 = false →
    ∃ t u, exec (.copyLineReply c) s = .next t ∧ (t.core c).cp.active = some { y with
        next := s.now + (s.core c).copyCycle, lines := [{ l with due := some u, sent := s.now }] } ∧
      s.now + 4 * (s.core c).cl ≤ u ∧ (t.core c).spad = (s.core c).spad ∧ t.mem = s.mem) ∧
  (∀ (s : State) (c : CoreId) (y : Copy) (d : Nat), (s.core c).cp.active = some y → y.record = some d → y.next ≤ s.now →
    s.noSlots c 1 = false →
    exec (.copyLineReply c) s = .next ((s.onCore c fun k => { k with cp := { k.cp with active := some { y with
      record := none, recSent := s.now, recUntil := s.now + d, next := s.now + d } } }).schedule (s.now + d)
        (.copyLineReply c))) ∧
  (∀ (s : State) (c : CoreId) (y : Copy) (l : CopyLine) (u : Nat) (e : Cause), (s.core c).cp.active = some y →
    y.record = none → y.fail = none → y.lines = [l] → l.due = some u → u ≤ s.now → l.err = some e →
    exec (.copyLineReply c) s = .next ((s.onCore c fun k => { k with cp := { k.cp with
      active := none, pending := none, err := some (e, y.recAddr) } }).lsAdvance c)) ∧
  (∀ (s : State) (c : CoreId) (y : Copy), (s.core c).cp.active = some y → y.lines = [] → y.next ≤ s.now →
    (s.core c).cp.pending = none →
    exec (.copyComplete c) s = .next ((s.onCore c fun k => { k with
      cp := { k.cp with active := none, done := k.cp.done + 1 }
      ui := if y.irq && !k.leavingNow then { k.ui with pending := k.ui.pending + 1 } else k.ui }).lsAdvance c)) ∧
  (∀ (s : State) (m : Mv) (v hv iv pv : V512), s.me.ga.err = none → s.me.gatherFull = false →
    s.me.port .gaH = some hv → s.me.port .gaIx = some iv → s.me.port .gaSp = some pv →
    let h : Handle := BitVec.ofNat 128 hv.toNat
    0 < sval v → sval v ≤ 4096 → h.isSpad = false → h.v = true → h.ctx = s.me.ctx.toNat → sval iv % 64 = 0 →
    sval pv % 64 = 0 → sval iv + 64 * sval v ≤ 0x80000 → sval pv + 64 * sval v ≤ 0x80000 →
    (Ready s (.gaGth m) v → ∀ c, (s.chargeSlot (.gaGth m)).settle false = some c →
      let r := gatherRows c.me.spadAfterGathers h (sval iv) (sval pv) false (sval v) 0 c []
      exec (.gaGth m) s = .next (r.1.engineRead.queueGather ⟨none, h, r.2.1, r.2.2⟩).gaLatch.flushDeferred) ∧
    (Ready s (.gaSct m) v → ∀ c, (s.chargeSlot (.gaSct m)).settle true = some c →
      let r := gatherRows c.me.spadAfterGathers h (sval iv) (sval pv) true (sval v) 0 c []
      exec (.gaSct m) s = .next (r.1.endRelFence.queueGather ⟨none, h, r.2.1, r.2.2⟩).gaLatch.flushDeferred)) ∧
  (∀ (s : State) (wait : Bool) (m : Mv) (v : V512), Ready s (.gaStat wait m) v → s.me.ga.err = none →
    exec (.gaStat wait m) s = .next (if wait && !s.me.ga.ops.isEmpty then s.freeze [.gather] s.me.bs.slot
      else if m.k then (s.chargeSlot (.gaStat wait m)).gaLatch.flushDeferred else s.fault .illopd none s.me.bs.slot true)) ∧
  (∀ (s : State) (m : Mv) (v : V512), Ready s (.gaMode m) v → s.me.ga.err = none →
    exec (.gaMode m) s = .next ((s.chargeSlot (.gaMode m)).onMe fun k =>
      k.onPctx fun p => { p with gmode := bit v.toNat 0 }).gaLatch.flushDeferred) ∧
  (∀ (s : State) (c : CoreId) (o : GatherOp) (g : GatherRow) (a : Nat), (s.core c).ga.ops = [o] → o.fid = none →
    o.rows = [g] → g.ix = none → (∀ l ∈ g.lanes, ∃ u, l.due = some u ∧ u ≤ s.now) → g.load = true →
    g.sp = some a → (s.core c).slot3Used s.now a = false →
    ∃ t : State, exec (.gatherOpComplete c) s = .next (t.lsAdvance c) ∧ (t.core c).ga.ops = [] ∧
      (t.core c).spad = g.writes.foldl (fun p w => p.write w.1 w.2.1 w.2.2) (s.core c).spad ∧
      (t.core c).ga.done = (if o.err.isSome then (s.core c).ga.done else (s.core c).ga.done + 1) ∧
      (t.core c).ga.err = (s.core c).ga.err.or o.err ∧ (t.core c).rf = (s.core c).rf ∧ t.mem = s.mem)

/-- A user-level completion interrupt is taken at a bundle boundary in 2 control cycles: latches and ports are
banked and empty, control is at the handler's target; UIRET gives them back and returns (R24, R180, R182). -/
def Obligations.UserInterruptsAreTakenAndLeft : Prop :=
  (∀ (s : State) (c : CoreId) (t : Target), (s.core c).ui.target = some t → 0 < (s.core c).ui.pending →
    (s.core c).ui.active = false → (s.core c).masked = false →
    ∃ u, exec (.uiTake c) s = .next u ∧ (u.core c).pc = t ∧ (u.core c).ui.active = true ∧
      (u.core c).ui.pending = (s.core c).ui.pending - 1 ∧ (u.core c).ui.ret = (s.core c).pc ∧
      (u.core c).lat = Latches.reset ∧ (u.core c).ports = Ports.reset ∧ (u.core c).ui.banked = (s.core c).lat ∧
      (u.core c).ui.bankedPorts = (s.core c).ports ∧ (u.core c).time = (s.core c).time + 2 * (s.core c).cl ∧
      (u.core c).rf = (s.core c).rf ∧ u.mem = s.mem) ∧
  (∀ (s : State) (m : Mv) (v : V512), Ready s (.uiret m) v →
    (s.me.ui.active = true → exec (.uiret m) s = .next (((s.chargeSlot (.uiret m)).onMe fun k =>
      { k with bs := { k.bs with uiret := true } }).startEnd)) ∧
    (s.me.ui.active = false → exec (.uiret m) s = .next (s.fault .illopd none s.me.bs.slot true))) ∧
  (∀ s : State, s.me.bs.uiret = true → s.me.bs.tret = none → s.me.bs.waits = [] → hdrPop s.me.bs.hdr = 0 →
    hdrKind s.me.bs.hdr = 0 →
    let t := s.endCycle
    t.me.pc = s.me.ui.ret ∧ t.me.lat = s.me.ui.banked ∧ t.me.ports = s.me.ui.bankedPorts ∧ t.me.ui.active = false ∧
      t.me.phase = .run ∧ t.me.rf = s.me.rf ∧ t.me.loops = s.me.endPlan.2 ∧ t.mem = s.mem)

/-! ## The strand unit, Bracken and the key-value window -/

/-- A result of tk, due lat control cycles after commit. -/
def Sys2Proof.Claims.tkDelivers (c : State) (d : Option RegName) (v lat : Nat) : State :=
  (c.tkFlight .s d v (some (c.me.time + lat * c.me.cl)) false).2

/-- POST sends the record with its SEQ to the home cluster of an address, its status 6 control cycles later where the
lease cache holds the address; ARGA computes an argument's address, 4 cycles later where the strand unit's cache holds
the node entry; a miss adds an open time, taken from the list of delays (R120, R122, R409; log 3). The cache keeps the
16 entries used latest (R119; which it gives up is the model's choice, log 9). JINIT and JDEC ask for their counter's
operation, JINIT claiming an unclaimed counter at its commit (log 19, DESIGN CHOICE); STRD reads a stream, and a due
result of the unit lands (R299, R311). -/
def Obligations.StrandUnitTriggers : Prop :=
  (∀ (s : State) (m : Mv) (v x : V512) (g : Mapping), Ready s (.post m) v →
    let c := s.chargeSlot (.post m)
    let r := Record.ofNat v.toNat
    c.me.pendingReport true = none → c.me.port .tkX = some x → r.w1.toNat % 16 = 0 → r.flg = 0 →
    (s.me.ctx ≠ 0 → r.ctx = s.me.ctx) → sval x < 2 ^ 56 → r.node < c.ncnt r.ctx r.tmpl →
    c.translateHere (sval x) = some g →
    let k := homeCluster (g.phys (sval x))
    let n := c.nextSeq r.ctx
    let u := n.2.takeId
    let q := u.2.postedRec r u.1 n.1
    let w := match q.launch with | some id => u.2.countRecord id r.tmpl r.node | none => u.2
    let send (e : State) (n' : Nat) : State :=
      let p := e.tkFlight .latch none (n.1 + 2 ^ 16 * k.toNat) (some (e.me.time + n' * e.me.cl)) false
      (p.2.tkRequest (.post q k) p.1).flushDeferred
    q.rcd = r.setW3 n.1 0 ∧ (w.leaseCached (sval x) = true → exec (.post m) s = .next (send w 6)) ∧
    (w.leaseCached (sval x) = false → let e := w.takeDelay Config.guideSlice
      exec (.post m) s = .next (send e.2 (6 + ceilDiv e.1 w.me.cl)))) ∧
  (∀ (s : State) (m : Mv) (v : V512) (a : Nat) (d : Option RegName), Ready s (.arga m) v →
    let c := s.chargeSlot (.arga m)
    let r := c.me.record
    destOf c .s m.k .tkTo = some d →
    let key := (s.me.ctx, r.tmpl, r.node)
    let keep (c : State) : State := c.onMe fun k =>
      { k with nodeCache := (key :: k.nodeCache.filter fun e => e != key).take 16 }
    (argAddr (c.nodeEntry s.me.ctx r.tmpl r.node) r.inst (sval v) = some a →
      (key ∈ s.me.nodeCache → exec (.arga m) s = .next (tkDelivers (keep c) d a 4).flushDeferred) ∧
      (key ∉ s.me.nodeCache → let e := c.takeDelay Config.guideSlice
        exec (.arga m) s = .next (tkDelivers (keep e.2) d a (4 + ceilDiv e.1 s.me.cl)).flushDeferred)) ∧
    (argAddr (c.nodeEntry s.me.ctx r.tmpl r.node) r.inst (sval v) = none →
      exec (.arga m) s = .next (s.fault .argrange none s.me.bs.slot true))) ∧
  (∀ (e i k : Nat), k ≤ 5 → k < neNarg e → neNarg e ≤ 6 → getBytes e (16 + 16 * k) 8 < 2 ^ 56 →
    let w := getBytes e (24 + 16 * k) 8
    let div := bits w 63 40
    let off : Int := if div = 0 then i * sx (bits w 17 0) 18
      else (i / div : Nat) * sx (bits w 35 18) 18 + (i % div : Nat) * sx (bits w 17 0) 18
    let a : Int := getBytes e (16 + 16 * k) 8 + off * 2 ^ bits w 39 36
    argAddr e i k = if 0 ≤ a ∧ a < 2 ^ 56 then some a.toNat else none) ∧
  (∀ (s : State) (m : Mv) (v x : V512), Ready s (.jinit m) v →
    let c := s.chargeSlot (.jinit m)
    let j := sval x
    c.me.pendingReport true = none → c.me.port .tkX = some x → j < 16384 → sval v < 2 ^ 32 →
    c.joinForeign j s.me.ctx = false →
    let w := if (c.join j).own.isNone then c.setJoin j { c.join j with own := some s.me.ctx } else c
    let p := w.tkFlight .latch none 0 none false
    exec (.jinit m) s = .next (p.2.tkRequest (.jinit j (sval v)) p.1).flushDeferred) ∧
  (∀ (s : State) (m : Mv) (v : V512), Ready s (.jdec m) v →
    let c := s.chargeSlot (.jdec m)
    c.me.pendingReport true = none → sval v < 16384 → c.joinForeign (sval v) s.me.ctx = false →
    let p := c.tkFlight .latch none 0 none false
    exec (.jdec m) s = .next (p.2.tkRequest (.jdec (sval v)) p.1).flushDeferred) ∧
  (∀ (s : State) (j : Nat) (v : Vc), (s.join j).value ≠ 0 → (s.join j).value ≠ 1 →
    ((s.joinDec j v).1.join j).value = (s.join j).value - 1 ∧ (s.joinDec j v).2 = ((s.join j).value - 1).toNat ∧
    (s.joinDec j v).1.mem = s.mem) ∧
  (∀ (s : State) (f : StField) (m : Mv) (v : V512) (t : Stream) (d : Option RegName), Ready s (.strd f m) v →
    let c := s.chargeSlot (.strd f m)
    destOf c .s m.k .tkTo = some d → sval v < 64 → c.stream (sval v) = some t → t.ctx = s.me.ctx →
    exec (.strd f m) s = .next (tkDelivers c d (match f with
      | .rung => t.rung
      | .ontime => t.ontime
      | .period => t.period.toNat
      | .dloff => t.dloff.toNat
      | .fseq => t.fseq.toNat
      | .origin => t.origin.toNat) 4).flushDeferred) ∧
  (∀ (s : State) (c : CoreId) (f : Flight) (t : Nat), s.reqsOf c = [] → (s.core c).fl = [f] → f.unit = .tk →
    f.due = some t → t ≤ s.now → f.acq = false →
    exec (.tkResultDelivery c) s = .next (({ s with cur := c } : State).onCore c fun k => k.landOne f))

/-- A window operation's answer: its status some time later, an acquire, the link block kept current (R364). -/
def Sys2Proof.Claims.windowReplies (u : State) (n : Nat) (q : Stream) (pos evp : Nat) : State :=
  let e := u.takeDelay Config.guideWindow
  let x := (e.2.tkFlight .latch none (windowStatus u q pos evp) (some (e.2.me.time + e.1)) true).2
  ((x.acquireVc x.cur q.vc).syncLink n).flushDeferred

/-- The areas of a tree lie apart: its nodes, their stored units, the payload slots and the descriptor (R332). -/
def Sys2Proof.Claims.TreeApart (t : Tree) : Prop :=
  let nodes := 128 * t.nn
  let units := 4 * t.g * t.nn
  let slots := 2048 * t.nn
  (t.unitb + units ≤ t.nodeb ∨ t.nodeb + nodes ≤ t.unitb) ∧ (t.payb + slots ≤ t.nodeb ∨ t.nodeb + nodes ≤ t.payb) ∧
  (t.desc + 128 ≤ t.nodeb ∨ t.nodeb + nodes ≤ t.desc) ∧ (t.desc + 128 ≤ t.unitb ∨ t.unitb + units ≤ t.desc)

/-- HASHU steps the keyed hash of an enabled tree, SNAP and SNFIND ask the unit for the descriptor at an address,
SNPIN, SNREL and SNSTAT act on a tree, KVADV and KVPIN on a stream's window (R335, R342 to R347, R364 to R366). What
SNAP and SNFIND do at the unit: a granule of the walk, the nodes and the payload SNAP writes, SNFIND's pin and its copy,
and the result words (R340, R341, R343, R345). The time a window operation's answer takes is open (log 3), and the
answers of SNFIND, KVADV and KVPIN are acquires (log 15): the model's choices. -/
def Obligations.BrackenAndWindowTriggers : Prop :=
  (∀ (s : State) (m : Mv) (v x : V512) (t : Tree) (d : Option RegName), Ready s (.hashu m) v →
    let c := s.chargeSlot (.hashu m)
    c.me.port .tkX = some x → sval x < 2 ^ 61 - 1 → sval v < 2 ^ 38 → c.tree (sval v / 2 ^ 32) = some t →
    (s.me.ctx = 0 ∨ s.me.ctx = t.own) → destOf c .s m.k .tkTo = some d →
    exec (.hashu m) s = .next
      (tkDelivers c d ((sval x * t.keyb + sval v % 2 ^ 32 + 1) % (2 ^ 61 - 1)) 4).flushDeferred) ∧
  (∀ (s : State) (m : Mv) (v : V512) (d : Option RegName), Ready s (.snap m) v →
    let c := s.chargeSlot (.snap m)
    c.me.pendingReport true = none → destOf c .s m.k .tkTo = some d → sval v < 2 ^ 56 → sval v % 64 = 0 →
    (c.translateHere (sval v)).isSome = true → c.releaseBusy = false →
    let e := c.eagerRelease
    exec (.snap m) s = .next (e.2.unitFlight d false fun s => s.snapOp s.reader (sval v) e.1).flushDeferred) ∧
  (∀ (s : State) (m : Mv) (v : V512) (d : Option RegName), Ready s (.snfind m) v →
    let c := s.chargeSlot (.snfind m)
    c.me.pendingReport false = none → c.releaseBusy = false → destOf c .s m.k .tkTo = some d →
    sval v < 2 ^ 56 → sval v % 64 = 0 → (c.translateHere (sval v)).isSome = true →
    exec (.snfind m) s = .next (c.engineRead.unitFlight d true fun s =>
      s.snfindOp s.reader (s.who s.cur) (sval v)).flushDeferred) ∧
  (∀ (s : State) (m : Mv) (v : V512) (t : Tree) (d : Option RegName), (s.me.ctx = 0 ∨ s.me.ctx = t.own) →
    let put (c : State) (f : State → State × Nat) : State := (c.unitFlight d false f).flushDeferred
    let bad (i : Nat) (c : State) : Bool := decide (i < t.nn) && c.nodePoisoned t i
    let ok (c : State) (n : Nat) : Prop := destOf c .s m.k .tkTo = some d ∧ c.tree n = some t
    (Ready s (.snpin m) v → sval v < 2 ^ 26 → let c := s.chargeSlot (.snpin m); ok c (sval v / 2 ^ 20) →
      exec (.snpin m) s = .next (put c fun c => if bad (sval v % 2 ^ 20) c then (c, 0x80 + 2 ^ 8 * Cause.eccunc.code)
        else c.snpinOp t (sval v % 2 ^ 20))) ∧
    (Ready s (.snrel m) v → sval v < 2 ^ 26 → let c := s.chargeSlot (.snrel m); ok c (sval v / 2 ^ 20) →
      exec (.snrel m) s = .next (put c fun c => if bad (sval v % 2 ^ 20) c then (c, 0x80 + 2 ^ 8 * Cause.eccunc.code)
        else c.snrelOp t (sval v % 2 ^ 20))) ∧
    (∀ f, Ready s (.snstat f m) v → sval v < 2 ^ 6 → let c := s.chargeSlot (.snstat f m); ok c (sval v) →
      exec (.snstat f m) s = .next (put c fun c => (c, c.mem.read (t.desc + match f with
        | .nodes => 64 | .free => 68 | .coll => 72 | .evict => 80) (match f with
        | .nodes => 4 | .free => 4 | .coll => 8 | .evict => 8))))) ∧
  (∀ (s : State) (m : Mv) (v : V512) (t : Stream) (p : Nat) (e : Option WPage), Ready s (.kvadv m) v →
    let c := s.chargeSlot (.kvadv m)
    let n := sval v % 64
    c.me.pendingReport true = none → c.releaseBusy = false → c.me.fl.any (·.acq) = false → sval v < 2 ^ 7 →
    c.stream n = some t → t.ctx = s.me.ctx → t.vw ≠ 0 →
    e = (if t.win.length = t.cap then t.win.find? fun w => !w.pinned else none) →
    (bit (sval v) 6 = true ∧ (∃ x, c.me.port .tkX = some x ∧ p = sval x) ∧ c.pageCount p ≠ 0 ∧ c.pageCount p ≠ 65535 ∧
        Tbl.get 0 c.kvOwner (pageNo p) = s.me.ctx ∧ t.win.any (fun w => w.pa == p) = false) ∨
      (bit (sval v) 6 = false ∧ (c.topPage t.ctx = some p ∨
        (c.topPage t.ctx = none ∧ ∃ w, e = some w ∧ c.pageCount w.pa = 1 ∧ p = w.pa))) →
    (∀ w, e = some w → c.pageBusy t.ctx (t.vw + 2 ^ 19 * w.pos) c.nextId = false) →
    let w := c.eagerRelease.2.windowAdvance n t e (bit (sval v) 6) p
    let u := w.1.onStream n fun t => { t with vc := vcJoin t.vc c.eagerRelease.1 }
    let evp := match e with | some w => 128 + w.pos | none => 0
    ∀ (q : Stream), u.stream n = some q →
    exec (.kvadv m) s = .next (windowReplies u n q w.2 evp)) ∧
  (∀ (s : State) (m : Mv) (v : V512) (t : Stream) (w : WPage), Ready s (.kvpin m) v →
    let c := s.chargeSlot (.kvpin m)
    let n := sval v % 64
    let pos := bits (sval v) 13 8
    let un := bit (sval v) 16
    c.me.pendingReport true = none → c.releaseBusy = false → c.me.fl.any (·.acq) = false → bits (sval v) 7 6 = 0 →
    bits (sval v) 15 14 = 0 → sval v < 2 ^ 17 → c.stream n = some t → t.ctx = s.me.ctx → t.vw ≠ 0 →
    (t.win.find? fun w => w.pos == pos) = some w →
    (un = false → w.pinned = false → (t.win.filter (·.pinned)).length < Nat.min 4 (t.cap - 1)) →
    (un = true → w.pinned = true) →
    let u := c.eagerRelease.2.onStream n fun t => { t with
      vc := vcJoin t.vc c.eagerRelease.1
      win := t.win.map fun x => if x.pos = pos then { x with pinned := !un } else x }
    ∀ (q : Stream), u.stream n = some q → exec (.kvpin m) s = .next (windowReplies u n q pos 0)) ∧
  (∀ (s : State) (tn : Nat) (t : Tree) (q : Reader) (inp n : Nat) (w : Walk),
    let r := s.inputUnits q inp t.g (w.j * t.g)
    let h := r.2.foldl (hashStep t.keyb) w.h
    (r.1.childOf t w.cur h = none → s.walk tn t q inp (n + 1) w = (r.1, w)) ∧
    (∀ i, r.1.childOf t w.cur h = some i →
      let u := (r.1.touchBytes q.ctx (t.nodeAt i) 128).touchBytes q.ctx (t.unitsAt i) (4 * t.g)
      (u.storedUnits t i ≠ r.2 → s.walk tn t q inp (n + 1) w = (u.suspect tn t i, w)) ∧
      (u.storedUnits t i = r.2 →
        let y := u.setNodeF t i 24 8 u.gt
        s.walk tn t q inp (n + 1) w = y.walk tn t q inp n
          ⟨i, h, w.j + 1, if y.nodeP t i then some i else w.best, i :: w.path⟩))) ∧
  (∀ (s : State) (tn : Nat) (t : Tree) (i : Nat), (t.desc + 128 ≤ t.nodeAt i ∨ t.nodeAt i + 128 ≤ t.desc) →
    ∃ u : State, s.suspect tn t i = u.postEvent t.own 0x86 0x0200 (tn + 2 ^ 32 * i + 2 ^ 64 * u.nodeDepth t i) ∧
      u.nodeSus t i = true ∧ u.treeCount t .coll = (s.treeCount t .coll + 1) % 2 ^ 64 ∧
      u.nodeV t i = s.nodeV t i ∧ u.nodeChn t i = s.nodeChn t i ∧ u.nodePin t i = s.nodePin t i) ∧
  (∀ (s : State) (t : Tree) (q : Reader) (inp j cur h i : Nat), TreeApart t → i < t.nn → cur < t.nn → cur ≠ i →
    t.nn < 2 ^ 32 → j + 1 < 2 ^ 32 → t.unitsAt i < 2 ^ 64 →
    let r := s.inputUnits q inp t.g (j * t.g)
    let x := r.2.foldl (hashStep t.keyb) h
    x < 2 ^ 64 → r.1.gt < 2 ^ 64 → ((upto t.nn).find? fun n => n != 0 && !r.1.nodeV t n) = some i →
    let u := (s.newNodes t q inp 1 j cur h).1
    (s.newNodes t q inp 1 j cur h).2 = i ∧ u.nodeF t i 0 8 = x ∧ u.nodeF t i 8 4 = cur ∧ u.nodeDepth t i = j + 1 ∧
      u.nodeV t i = true ∧ u.nodeP t i = false ∧ u.nodeSus t i = false ∧ u.nodeChn t i = 0 ∧ u.nodePin t i = 0 ∧
      u.nodeF t i 24 8 = r.1.gt ∧ u.mem.read (t.unitsAt i) (4 * t.g) = packNat 32 r.2 % 2 ^ (32 * t.g) ∧
      u.nodeChn t cur = (r.1.nodeChn t cur + 1) % 2 ^ 32 ∧
      u.treeCount t .nodes = (r.1.treeCount t .nodes + 1) % 2 ^ 32 ∧
      u.treeCount t .free = r.1.treeCount t .free - 1) ∧
  (∀ (s : State) (tn : Nat) (t : Tree) (i recs st nrec : Nat) (pages : List Nat) (vc : Vc), TreeApart t → i < t.nn →
    t.payAt i < 2 ^ 64 → s.gt < 2 ^ 64 → nrec + 16 * pages.length < 2 ^ 64 →
    let u := s.placePayload tn t i recs st nrec pages vc
    u.mem.read (t.payAt i) 512 = recs % 2 ^ 4096 ∧ u.mem.read (t.payAt i + 512) 64 = st % 2 ^ 512 ∧
      u.mem.read (t.payAt i + 576) 8 = nrec + 16 * pages.length ∧
      (∀ k, k < pages.length → k < 176 → u.mem.read (t.payAt i + 640 + 8 * k) 8 = pages.getD k 0 % 2 ^ 64) ∧
      u.nodeF t i 32 8 = t.payAt i ∧ u.nodeP t i = true ∧ u.nodeF t i 24 8 = s.gt ∧ u.nodeV t i = s.nodeV t i) ∧
  (∀ (s : State) (q : Reader) (va : Nat) (vc : Vc), (∀ c, s.barred q va 64 false true = some c →
      s.snapOp q va vc = (s, bkRefused c)) ∧
    (s.barred q va 64 false true = none →
    let d := s.unitReadMany q va 4
    (∀ c, d.1.treeFor q.ctx (d.2 % 64) = .error c → s.snapOp q va vc = (d.1, bkRefused c)) ∧
    ∀ t, d.1.treeFor q.ctx (d.2 % 64) = .ok t →
      (snapDesc d.2 = none → s.snapOp q va vc = (d.1, bkRefused .illopd)) ∧
      ∀ e, snapDesc d.2 = some e → d.1.barred q e.inp (4 * t.g * e.k) false true = none →
        d.1.barred q e.reca (64 * e.nrec) false true = none → d.1.barred q e.sta 64 false true = none →
        (∀ n, e.win = some n → ∃ x, d.1.stream n = some x ∧ x.ctx = q.ctx) →
        let a := d.1.unitReadMany q e.reca (4 * e.nrec)
        let b := a.1.unitReadMany q e.sta 4
        (∀ i, i < e.nrec → getBytes a.2 (64 * i + 8) 8 % 16 = 0 ∧
          bits (getBytes a.2 (64 * i + 8) 8) 9 6 = t.own.toNat) →
        let w := b.1.walk e.tree t q e.inp e.k Walk.start
        let m := e.k - w.2.j
        let us := if m = 0 then [] else (w.1.inputUnits q e.inp t.g (w.2.j * t.g)).2
        let poisoned := b.1.walkPoisoned t w.2 us || w.1.roomPoisoned e.tree t w.2.path m
        let kept := decide (m = 0) && w.1.nodeP t w.2.cur
        let r := w.1.makeRoom e.tree t w.2.path m t.nn
        let win := match e.win.bind r.stream with | some x => x.win | none => []
        let full := decide (r.treeCount t .free < m) || win.any fun p => r.pageCount p.pa == 65535
        let n := r.newNodes t q e.inp m w.2.j w.2.cur w.2.h
        let y := n.1.placePayload e.tree t n.2 a.2 b.2 e.nrec (win.map fun p => p.pa + 2 ^ 63 * boolCode p.pinned) vc
        s.snapOp q va vc = if poisoned then (b.1, bkRefused .eccunc)
          else if kept then (w.1, bkResult w.2.cur e.k 4)
          else if full then (r, bkResult 0 0 2)
          else (win.foldl (fun s p => s.setPageCount p.pa (s.pageCount p.pa + 1)) y, bkResult n.2 e.k 0))) ∧
  (∀ (s : State) (t : Tree) (i : Nat), (∀ j, (s.pinNode t i).nodePin t j =
      if j = i then (s.nodePin t i + 1) % 2 ^ 32 else s.nodePin t j) ∧
    (i ≠ 0 → i < t.nn → s.nodeV t i = true →
      (s.nodePin t i ≠ 2 ^ 32 - 1 → (s.snpinOp t i).1.nodePin t i = s.nodePin t i + 1) ∧
      (s.nodePin t i ≠ 0 → (s.snrelOp t i).1.nodePin t i = s.nodePin t i - 1))) ∧
  (∀ (s : State) (q : Reader) (w : Who) (va : Nat) (t : Tree) (e : FindDesc), s.barred q va 64 false true = none →
    let d := s.unitReadMany q va 4
    d.1.treeFor q.ctx (d.2 % 64) = .ok t → findDesc d.2 = some e →
    (e.n = 0 ∨ d.1.barred q e.inp (4 * e.n) false false = none) →
    (∀ c, e.dst ≠ 0 → d.1.barred q e.dst 2048 true false = some c → s.snfindOp q w va = (d.1, bkRefused c)) ∧
    ((e.dst = 0 ∨ d.1.barred q e.dst 2048 true false = none) →
      let u := if e.dst = 0 then d.1 else d.1.purgeDest q w e.dst
      let x := u.walk e.tree t q e.inp (e.n / t.g) Walk.start
      (u.findPoisoned t q e (decide (e.dst ≠ 0)) = true → s.snfindOp q w va = (u, bkRefused .eccunc)) ∧
      (u.findPoisoned t q e (decide (e.dst ≠ 0)) = false →
        (x.2.best = none → s.snfindOp q w va = (x.1, bkResult 0 0 1)) ∧
        ∀ b, x.2.best = some b →
          (x.1.nodePin t b = 2 ^ 32 - 1 → s.snfindOp q w va = (x.1, bkResult 0 0 2)) ∧
          (x.1.nodePin t b ≠ 2 ^ 32 - 1 →
            let p := x.1.pinNode t b
            let y := if e.dst = 0 then p else p.copyPayload q w (t.payAt b) e.dst
            s.snfindOp q w va = (y.acquireVc w.core (Tbl.get [] t.vcs b), bkResult b (y.nodeDepth t b) 0))))) ∧
  (∀ (s : State) (q : Reader) (w : Who) (slot dst b : Nat), let u := s.touchBytes q.ctx slot 2048
    (slot + 2048 ≤ b ∨ b + 2048 ≤ slot) →
    (∀ i, i < 128 → ∃ m, u.translate q.ctx q.launch (dst + 16 * i) = some m ∧ m.phys (dst + 16 * i) = b + 16 * i) →
    (s.copyPayload q w slot dst).mem.read b 2048 = u.mem.read slot 2048 ∧
      ∀ a, (a < b ∨ b + 2048 ≤ a) → (s.copyPayload q w slot dst).mem.byte a = u.mem.byte a)

/-- The record of a strand that has left its core at a target: it names the target, RFLG and WOBJ, keeps SEQ and every
other field of the running record, and carries g60 to g63 (R124). -/
def Sys2Proof.Claims.LeftRecord (s : State) (c : CoreId) (r : Running) (t : Target) (flg wobj : Nat) (q : QRec) : Prop :=
  q.uid = r.uid ∧ q.launch = r.launch ∧ q.released = some s.gt ∧ q.gang = none ∧
  q.rcd.w0 = BitVec.ofNat 64 (t.seg.toNat / 2 ^ 8 * 2 ^ 16 + t.bix.toNat * 2 ^ 8 + flg) ∧
  q.rcd.w1 = r.rcd.w1 ∧ q.rcd.w2 = r.rcd.w2 ∧
  q.rcd.w3.toNat = r.rcd.w3.toNat / 2 ^ 48 * 2 ^ 48 + wobj % 2 ^ 48 ∧
  q.rcd.cv0.toNat = (s.core c).rf.read 60 ∧ q.rcd.cv1.toNat = (s.core c).rf.read 61 ∧
  q.rcd.cv2.toNat = (s.core c).rf.read 62 ∧ q.rcd.cv3.toNat = (s.core c).rf.read 63

/-- A core after its strand has left: idle, its strand's latches, ports and results gone (R24, R124). -/
def Sys2Proof.Claims.CoreLeft (s t : State) (c : CoreId) : Prop :=
  (t.core c).run = none ∧ (t.core c).phase = .idle ∧ (t.core c).lat = Latches.reset ∧
  (t.core c).ports = Ports.reset ∧ (t.core c).fl = [] ∧ (t.core c).spad = (s.core c).spad

/-- YIELD, WAIT and END mark the bundle whose end the strand leaves at; WAIT on a counter at 0 goes on as an acquire
(R121, R125). At the bundle's end, R67's actions done and everything of the strand complete, the strand leaves (R124):
under YIELD its record, with RFLG 0x01, goes to the tail of its cluster's queue; under WAIT, with RFLG 0x02 and the
counter as WOBJ, it stays the counter's waiter, or goes to the queue where the counter has released it already; END
writes no record, and decrements JCTR where the node entry's JEN says so (R126). The strand's writes are released, the
core is free: idle, its strand's latches, ports and engines empty (R124 to R126, R242). -/
def Obligations.StrandsLeaveTheirCore : Prop :=
  (∀ (s : State) (m : Mv) (v : V512), s.me.ui.active = false →
    (Ready s (.endStrand m) v → let c := s.chargeSlot (.endStrand m)
      c.me.pendingReport true = none → c.me.repliesOut = false →
      exec (.endStrand m) s = .next (c.setLeave .endStrand).startEnd) ∧
    (Ready s (.yield m) v → let c := s.chargeSlot (.yield m)
      c.me.pendingReport true = none → c.me.repliesOut = false → s.me.run.bind (·.gang) = none →
      exec (.yield m) s = .next (if s.me.loops = [] then (c.setLeave .yield).startEnd
        else s.fault .loopstk none s.me.bs.slot true)) ∧
    (Ready s (.wait m) v → let c := s.chargeSlot (.wait m)
      let t := c.join (sval v)
      c.me.pendingReport true = none → c.me.repliesOut = false → s.me.run.bind (·.gang) = none → s.me.loops = [] →
      sval v < 16384 → c.joinForeign (sval v) s.me.ctx = false → c.tablePending = false →
      exec (.wait m) s = .next (if t.value = 0 then ((c.selfInvalidate s.cur).acquireVc s.cur t.vc).startEnd
        else ((c.setJoin (sval v) { t with waiters := t.waiters ++ [(c.waiterHere, clusterOf s.cur)] }).setLeave
          (.wait (sval v))).startEnd))) ∧
  (∀ (s : State) (l : Leave), s.me.bs.leave = some l → s.me.bs.tret = none → s.me.bs.uiret = false →
    s.me.bs.waits = [] → hdrPop s.me.bs.hdr = 0 → hdrKind s.me.bs.hdr = 0 →
    (l ≠ .endStrand → s.me.endPlan.1.seg ≠ 0 ∧ s.me.endPlan.1.seg.toNat % 256 = 0) →
    let e := (s.noteDebt s.cur s.me.time).finishBundle.onMe fun k => { k with phase := .leaving l }
    e.strandQuiet s.cur = true → e.carriedRace = none →
    s.endCycle = e.leaveNow s.cur l s.me.endPlan.1) ∧
  (∀ (s : State) (c : CoreId) (r : Running) (t : Target), (s.core c).run = some r → r.gang = none →
    let k := clusterOf c
    let y := s.leaveNow c .yield t
    (∃ q, (y.cluster k).queue = (s.cluster k).queue ++ [q] ∧
      LeftRecord s c r t 1 (r.rcd.w3.toNat % 2 ^ 48) q) ∧ CoreLeft s y c ∧
    (∀ e ∈ (y.core c).l1, e.dirty = 0) ∧ (∀ j, y.join j = s.join j) ∧
    ∀ j : Nat, j < 16384 → let w := s.leaveNow c (.wait j) t
      CoreLeft s w c ∧
      (((s.join j).waiters.any fun e => e.1.uid == r.uid) = true →
        (w.cluster k).queue = (s.cluster k).queue ∧ (w.join j).value = (s.join j).value ∧
        (w.join j).waiters.length = (s.join j).waiters.length ∧
        ∀ (i : Nat) (q : QRec × ClusterId), (w.join j).waiters[i]? = some q → ∃ o, (s.join j).waiters[i]? = some o ∧ q.2 = o.2 ∧
          if o.1.uid = r.uid then LeftRecord s c r t 2 j q.1 else q.1 = o.1) ∧
      (((s.join j).waiters.any fun e => e.1.uid == r.uid) = false →
        ∃ q, (w.cluster k).queue = (s.cluster k).queue ++ [q] ∧ LeftRecord s c r t 2 j q)) ∧
  (∀ (s : State) (c : CoreId) (r : Running) (t : Target), (s.core c).run = some r →
    let p := State.eagerRelease { s with cur := c }
    let n := p.2.nodeEntry (s.core c).ctx r.rcd.tmpl r.rcd.node
    let x := s.leaveNow c .endStrand t
    x = ((p.2.endJoin (s.core c).ctx r.rcd r.launch p.1).coreFree c).strandEnds r p.1 ∧
    (r.launch = none → r.gang = none → CoreLeft s x c ∧
      (neJen n = false → (∀ j, x.join j = s.join j) ∧ ∀ k, (x.cluster k).queue = (s.cluster k).queue) ∧
      (neJen n = true → p.2.joinForeign (neJctr n) (s.core c).ctx = false → (s.join (neJctr n)).value ≠ 0 →
        (x.join (neJctr n)).value = (s.join (neJctr n)).value - 1))) ∧
  (∀ (s : State) (c : CoreId), let t := s.coreFree c
    (t.core c).run = none ∧ (t.core c).phase = .idle ∧ (t.core c).lat = Latches.reset ∧
      (t.core c).ports = Ports.reset ∧ (t.core c).fl = [] ∧ (t.core c).mx.cfg = none ∧ (t.core c).q0 = [] ∧
      (t.core c).spad = (s.core c).spad ∧ (t.core c).rf = (s.core c).rf ∧ t.mem = s.mem)

/-! ## The system unit, traps and the end of a bundle -/

/-- A result of sy, due one control cycle after commit. -/
def Sys2Proof.Claims.sysDelivers (c : State) (d : Option RegName) (v : Nat) : State :=
  delivers c .sy .s d (BitVec.ofNat 512 v) 0 1 none

/-- CAPST stores the live capsule's image, CAPR reads its fields, TRAP and BRK trap after their slot with the next
slot as the resume point, TRET marks its bundle's end (R232, R234, R236, R238, R240, R241). TRET's re-entry, with the
image in the scratchpad and no reserved field set: pc, loop stack, bases, latches and resume point are the image's,
traps are unmasked and no capsule is live (R238); until its bytes have come, no earlier than a load's would, the bundle's
end freezes (R409). -/
def Obligations.CapsulesTrapsAndReturns : Prop :=
  (∀ (s : State) (m : Mv) (v hv : V512) (p : Capsule), Ready s (.capst m) v →
    let c := s.chargeSlot (.capst m)
    let h : Handle := BitVec.ofNat 128 hv.toNat
    s.me.capsule = some p → s.me.port .syH = some hv → h.v = true → h.ctx = s.me.ctx.toNat → sval v % 64 = 0 →
    sval v + 1536 ≤ h.size → h.pw = true → slotsFull c 24 = false →
    exec (.capst m) s = .next (delivers ((c.storeImage h (sval v) p.image).onMe fun k => { k with capst := true })
      .sy .latch none 0 0 1 none).flushDeferred) ∧
  (∀ (s : State) (m : Mv) (v : V512), Ready s (.capst m) v → s.me.capsule = none →
    exec (.capst m) s = .next (s.fault .illopd none s.me.bs.slot true)) ∧
  (∀ (s : State) (m : Mv) (v hv : V512), Ready s (.tret m) v →
    let h : Handle := BitVec.ofNat 128 hv.toNat
    s.me.port .syH = some hv → h.v = true → h.ctx = s.me.ctx.toNat → sval v % 64 = 0 → sval v + 1536 ≤ h.size →
    h.pr = true →
    exec (.tret m) s = .next (((s.chargeSlot (.tret m)).addWait .stores).onMe fun k => { k with bs := { k.bs with
      tret := some (if h.isSpad then 2 ^ 64 + sval v else h.pbase + sval v)
      imageVa := if h.isSpad then 0 else h.va (sval v) } }).startEnd) ∧
  (∀ (s : State) (m : Mv) (v : V512), Ready s (.trap m) v →
    exec (.trap m) s = .next ((s.chargeSlot (.trap m)).fault .trapins (some (BitVec.ofNat 64 (sval v % 256)))
      (s.me.bs.slot + 1) true)) ∧
  (∀ (s : State) (m : Mv) (v : V512), Ready s (.brk m) v →
    exec (.brk m) s = .next ((s.chargeSlot (.brk m)).fault .brk (some 0) (s.me.bs.slot + 1) true)) ∧
  (∀ (s : State) (f : CapField) (m : Mv) (v : V512) (p : Capsule) (d : Option RegName), Ready s (.capr f m) v →
    s.me.capsule = some p → destOf s .s m.k .syTo = some d →
    exec (.capr f m) s = .next (sysDelivers (s.chargeSlot (.capr f m)) d (match f with
      | .cause => p.cause.code
      | .faddr => p.faddr.toNat
      | .resume => p.resume + if p.begun then 16 else 0
      | .bundle => p.baddr.seg.toNat + 2 ^ 56 * p.baddr.bix.toNat)).flushDeferred) ∧
  (∀ (s : State) (off : Nat), s.me.bs.tret = some (2 ^ 64 + off) → s.me.bs.waits = [] → hdrPop s.me.bs.hdr = 0 →
     hdrKind s.me.bs.hdr = 0 → s.storesOut = false → s.me.bs.imageAt = none →
     ∃ w, s.endCycle = (s.onMe fun k => { k with bs := { k.bs with imageAt := some (s.me.time + 6 * s.me.cl) } }).endFreeze w) ∧
  (∀ (s : State) (off e : Nat), s.me.bs.tret = some (2 ^ 64 + off) → s.me.bs.waits = [] → hdrPop s.me.bs.hdr = 0 →
     hdrKind s.me.bs.hdr = 0 → s.storesOut = false → s.me.bs.imageAt = some e → e ≤ s.me.time →
     s.me.spadErr off 1536 = false →
     let i := capImage (s.me.spadRead off 1536)
     i.refused s.me = none →
     let t := s.endCycle
     t.me.pc = Target.ofAbs i.baddr.toNat ∧ t.me.phase = .run ∧ t.me.masked = false ∧ t.me.capsule = none ∧
       t.me.lat = i.latches ∧ t.me.vrb = i.w3.toNat % 32 ∧ t.me.prb = i.w3.toNat / 2 ^ 8 % 8 ∧
       t.me.loops = loopsOf i.loops ∧ t.me.ui.active = i.inui ∧
       t.me.bs.resume = (if i.begun then i.resume else 0) ∧ t.me.rf = s.me.rf ∧ t.mem = s.mem)

/-- R231: with a handler, and nothing in flight, the capsule takes what the bundle holds; traps are masked, the
latches and ports emptied but sy.h, which has the capsule area's handle; control passes to TVEC after 16 cycles. A
fault raised then is delivered at once; one raised while masked is a double fault; one without a handler, or LEASE
or SLICEOVR, ends its strand and is reported (R226, R242, R243). The watchdogs raise WDFREEZE and PIPEWD on a frozen
bundle that has reached the limit, begun flag 0, and the slice limit SLICEOVR between bundles; before the limit nothing
happens (R168, R248). -/
def Obligations.TrapsAndWatchdogsStrike : Prop :=
  (∀ (s : State) (c : CoreId) (r : Raised) (m : Mapping), (s.core c).phase = .faulting r → (s.core c).fl = [] →
    (s.core c).revoking = false →
    let x := s.ctx (s.core c).ctx
    x.capb ≠ 0 → x.capb.toNat < 2 ^ 56 → s.present (s.core c).ctx x.capb.toNat = some m →
    ∃ t p, exec (.trapEntry c) s = .next t ∧ (t.core c).pc = Target.ofAbs x.tvec.toNat ∧ (t.core c).phase = .run ∧
      (t.core c).masked = true ∧ (t.core c).lat = Latches.reset ∧ (t.core c).loops = [] ∧ (t.core c).vrb = 0 ∧
      (t.core c).prb = 0 ∧ (t.core c).time = (s.core c).time + 16 * (s.core c).cl ∧
      (t.core c).frz = (s.core c).frz + 16 ∧ (t.core c).rf = (s.core c).rf ∧ (t.core c).ctx = (s.core c).ctx ∧
      t.mem = s.mem ∧ (∀ q, (t.core c).port q = if q = .syH
        then some (BitVec.ofNat 512 (m.handle (s.core c).ctx).toNat) else none) ∧
      (t.core c).capsule = some p ∧ p.baddr = r.baddr ∧ p.faddr = r.faddr ∧ p.cause = r.cause ∧ p.resume = r.slot ∧
      p.begun = r.begun ∧ p.lat = (s.core c).lat ∧ p.ports = (s.core c).ports ∧ p.loops = (s.core c).loops ∧
      p.vrb = (s.core c).vrb ∧ p.prb = (s.core c).prb ∧ p.sup = (s.core c).sup ∧
      ∀ n : Fin 8, p.ops[n] = if n.val < (if r.begun then r.slot else (s.core c).bs.slot) then none
        else (s.core c).bs.ops[n]) ∧
  (∀ (s : State) (e : Cause) (a : W64) (n : Nat) (b : Bool), s.me.bs.deferred = [] → s.me.fl = [] →
    s.me.revoking = false → s.me.masked = false → (s.ctx s.me.ctx).tvec ≠ 0 →
    e ≠ .lease → e ≠ .sliceovr → e ≠ .dblfault →
    s.fault e (some a) n b = (s.onMe fun k => { k with phase := .faulting ⟨e, a, n, b, k.pc⟩ }).trapEntryNow s.cur
      ⟨e, a, n, b, s.me.pc⟩) ∧
  (∀ (s : State) (e : Cause) (a : W64) (n : Nat) (b : Bool), s.me.bs.deferred = [] →
    s.me.masked = true ∨ (s.ctx s.me.ctx).tvec = 0 ∨ e = .lease ∨ e = .sliceovr ∨ e = .dblfault →
    s.fault e (some a) n b = s.onMe fun k => { k with phase := .faulting ⟨e, a, n, b, k.pc⟩ }) ∧
  (∀ (s : State) (c : CoreId) (r : Raised), (s.core c).phase = .faulting r → (s.core c).fl = [] →
    (s.core c).revoking = false →
    (s.strandQuiet c = true →
      exec (.strandEndFault c) s = .next ((s.reportFault c r).discardStrand c (some r.cause)) ∧
      (s.reportFault c r).die.reports = s.die.reports ++ [⟨c, (s.core c).ctx, r.cause, r.faddr, r.baddr.abs,
        (s.core c).record.w0, (s.core c).record.w1, (s.core c).record.w2, (s.core c).record.w3⟩]) ∧
    ((s.ctx (s.core c).ctx).dead = false → (s.core c).masked = true →
      exec (.dblfault c) s = .next (((s.reportFault c { r with cause := .dblfault }).terminate (s.core c).ctx).discardStrand
        c (some .dblfault)))) ∧
  (∀ (s : State) (c : CoreId), (s.ctx (s.core c).ctx).dead = true →
    exec (.dblfault c) s = .next (s.discardStrand c (some .dblfault))) ∧
  (∀ (s : State) (c : CoreId) (t : Nat), (s.core c).bs.frozenSince = some t → (s.core c).phase = .run →
    (s.cluster (clusterOf c)).hedge.strand ≠ some c → (s.core c).bs.leave = none →
    let hit (e : Cause) : State := (s.onCore c fun k =>
      let k : Core := { k.onPctx fun p => { p with odebt := 0 } with bs := { k.bs with dropping := false } }
      k.raise e k.bs.wdVa k.bs.wdSlot false).deliverFault c
    let n := s.die.timer.at s.now - s.die.timer.at t
    ((s.core c).bs.pipeWait = false → exec (.wdfreeze c) s = .next (if s.die.fwdl ≤ n then hit .wdfreeze else s)) ∧
    ((s.core c).bs.pipeWait = true → exec (.pipewd c) s = .next (if s.die.pwdl ≤ n then hit .pipewd else s))) ∧
  (∀ (s : State) (c : CoreId) (r : Running), (s.core c).run = some r → r.gang = none → (s.core c).inSlice = true →
    (s.core c).phase = .run → (s.core c).bs.committed = false →
    exec (.sliceovr c) s = .next (
      if s.now < (s.core c).sliceFrom + 5 * ((s.core c).budget + (s.ctx (s.core c).ctx).ovrl.toNat) then s
      else (s.onCore c fun k => k.onPctx fun p => { p with odebt := (s.ctx (s.core c).ctx).ovrl.toNat }).strike c .sliceovr)) ∧
  (∀ (s : State) (c : CoreId) (r : Running), (s.core c).run = some r → (s.core c).phase = .run →
    (s.core c).inSlice = true → (s.core c).switchDue = false →
    exec (.sliceExpire c) s = .next (if s.now < (s.core c).sliceFrom + 5 * (s.core c).budget then s
      else (s.onCore c fun k => { k with switchDue := true }).schedule
        (s.now + 5 * (s.ctx (s.core c).ctx).ovrl.toNat) (.sliceovr c)))

/-- The system registers (R245, R246, R253, R255, R257 to R259): NCS and counter reads give the bundle's read-time
values, NCSW writes at once, SYSR and SYSW are PRIV outside context 0, CLKDIV waits at its bundle's end and then
changes its divisor, a revocation waits for the page and then invalidates its handles, a preset sets a counter. -/
def Obligations.SystemRegisterAccess : Prop :=
  (∀ (s : State) (m : Mv) (v : V512) (d : Option RegName), destOf s .s m.k .syTo = some d → s.me.bs.committed = true →
    (Ready s (.ecnt m) v →
      exec (.ecnt m) s = .next (sysDelivers (s.chargeSlot (.ecnt m)) d s.me.bs.ec0).flushDeferred) ∧
    (Ready s (.ncsr m) v →
      exec (.ncsr m) s = .next (sysDelivers (s.chargeSlot (.ncsr m)) d s.me.bs.ncs0.toNat).flushDeferred)) ∧
  (∀ (s : State) (l : List ReadRes), let b := (s.armBundle l).me.bs
    b.committed = true ∧
    (s.me.bs.kept = none → b.ncs0 = s.me.pctx.ncs ∧ b.f0 = s.me.rf.f ∧
      b.ec0 = s.me.pctx.ec.toNat / 2 ^ 8 % 2 ^ 48 + (if s.me.pctx.satf then 2 ^ 63 else 0)) ∧
    ∀ e, s.me.bs.kept = some e → b.ncs0 = e.1 ∧ b.ec0 = e.2.1 ∧ b.f0 = e.2.2) ∧
  (∀ (s : State) (clr : Bool) (m : Mv) (v : V512), Ready s (.ncsw clr m) v →
    exec (.ncsw clr m) s = .next (if sval v < (if clr then 2 ^ 8 else 2 ^ 10)
      then (delivers ((s.chargeSlot (.ncsw clr m)).onMe fun k => k.onPctx fun p => { p with
        ncs := if clr then ncsClear p.ncs (BitVec.ofNat 8 (sval v)) else BitVec.ofNat 10 (sval v) })
          .sy .latch none 0 0 1 none).flushDeferred
      else s.fault .illopd none s.me.bs.slot true)) ∧
  (∀ (s : State) (m : Mv) (v : V512), s.me.ctx ≠ 0 →
    (Ready s (.sysr m) v → exec (.sysr m) s = .next (s.fault .priv none s.me.bs.slot true)) ∧
    (Ready s (.sysw m) v → exec (.sysw m) s = .next (s.fault .priv none s.me.bs.slot true))) ∧
  (∀ (s : State) (m : Mv) (v : V512) (n : Nat) (d : Option RegName), Ready s (.sysr m) v → s.me.ctx = 0 →
    let c := s.chargeSlot (.sysr m)
    bits (sval v) 15 12 = 0 → sval v < 2 ^ 20 →
    c.sysRead (sval v % 2 ^ 12) (BitVec.ofNat 4 (sval v / 2 ^ 16)) = some n → destOf s .s m.k .syTo = some d →
    exec (.sysr m) s = .next (sysDelivers c d (n % 2 ^ 64)).flushDeferred) ∧
  (∀ (s : State) (m : Mv) (v a : V512) (n : Nat), Ready s (.sysw m) v → s.me.ctx = 0 →
    let c := s.chargeSlot (.sysw m)
    let reg := sval v % 2 ^ 12
    let x : CtxId := BitVec.ofNat 4 (sval v / 2 ^ 16)
    bits (sval v) 15 12 = 0 → sval v < 2 ^ 20 → c.sysRead reg (if reg = 0x012 then 0 else x) = some n → firmwareReg reg = false →
    readOnlyReg reg = false → s.me.port .syX = some a → sysRefuses (c.ctx x) reg (sval a) = false →
    exec (.sysw m) s = .next (delivers (c.sysWrite reg x (BitVec.ofNat 64 (sval a))) .sy .latch none 0 0 1 none).flushDeferred) ∧
  (∀ (s : State) (x : CtxId) (v : W64), (s.sysWrite 0 x v).sysRead 0 x = some v.toNat ∧
    (s.sysWrite 1 x v).sysRead 1 x = some v.toNat ∧ (s.sysWrite 5 x v).sysRead 5 x = some v.toNat ∧
    (s.sysWrite 0xA x v).sysRead 0xA x = some v.toNat ∧ (s.sysWrite 0x10 0 v).sysRead 0x10 0 = some v.toNat) ∧
  (∀ (s : State) (f : Dom) (m : Mv) (v : V512), Ready s (.clkdiv f m) v →
    exec (.clkdiv f m) s = .next (
      if s.floorOf s.cur ≤ sval v ∧ sval v ≤ 15
      then ((s.chargeSlot (.clkdiv f m)).addWait (.clkdiv f (sval v) true)).startEnd
      else s.fault .clkdiv none s.me.bs.slot true)) ∧
  (∀ (s : State) (f : Dom) (n : Nat), let t := s.waitOver (.clkdiv f n true)
    t.me.pctx.div f = n ∧ t.me.lat[11] = some (BitVec.ofNat 512 n) ∧ (∀ g, g ≠ f → t.me.pctx.div g = s.me.pctx.div g) ∧
      t.me.rf = s.me.rf ∧ t.mem = s.mem) ∧
  (∀ (s : State) (c : CoreId) (x : CtxId) (va : W64) (n : Nat), (s.core c).bs.waits = [.revoke x va n] →
    exec (.revoke c) s = .next (if s.pageBusy x va.toNat n then s
      else (s.onCore c fun k => { k with bs := { k.bs with waits := [] } }).revokePage x va.toNat) ∧
    ∀ (d : CoreId) (i : Fin 16), ((s.revokePage x va.toNat).core d).rf.h[i] =
      if handleTo x va.toNat (s.core d).rf.h[i] then Handle.invalid (s.core d).rf.h[i] else (s.core d).rf.h[i]) ∧
  (∀ (s : State) (c : CoreId) (x : CtxId) (v : W64), v.toNat < 2 ^ 48 → ((s.core c).pctxOf x).inArea = false →
    ∃ t, exec (.ecsetPreset c x v) s = .next t ∧ ((t.core c).pctxOf x).ec = BitVec.ofNat 56 (v.toNat * 256) ∧
      ((t.core c).pctxOf x).satf = false ∧ t.mem = s.mem ∧ (t.core c).rf = (s.core c).rf)

/-- A bundle runs (R65 to R67): decoded, with no slot that waits or reports, it commits its slots, a control cycle
passes, and its end follows. At an end that nothing delays or faults and at which the strand neither leaves nor
switches, whatever the bundle's KIND and POP: the named heads advance once, kind 4 alone rotates the bases (R26), kind
2 unmasks traps, and control goes on at the next bundle, with the loop stack, that the branch, the loop close (R115),
kind 5 or the bundle's place chooses (R67). What faults or delays an end: an empty head, a loop close that is off its
entry or has none, kind 2 in a handler that kept nothing, no next segment (R67, R74, R115, R237). -/
def Obligations.BundlesRunAndGoOn : Prop :=
  (∀ (s : State) (b : BitVec 256) (g : Segment) (l : List Instr), s.me.phase = .run → s.me.bs = BundleState.reset →
    s.pausedByPhase = false → s.me.fl = [] → s.me.half s.me.cur = .full g → g.addr = s.me.pc.seg → g.bad = none →
    s.me.pc.bix.toNat < g.bundles.length → decodeBundle b s.me.ui.active = .ok l →
    let c := (s.onMe fun k => { k with bs := { k.bs with hdr := bundleHeader b } }).sampleLevel
    let vals := (upto 8).map fun n => match l[n]? with | some i => c.readSlot n i | none => .val 0
    let a := c.armBundle vals
    let f := trySlots a a l vals 0 ⟨[], []⟩
    (f.waits = [] → f.faults = [] → exec (.bundleExecute b) s = .next (a.commitCycle l)) ∧
    (∀ n w r, f.waits = (n, w) :: r → ∃ k, exec (.bundleExecute b) s = .next (c.freeze (f.waits.map (·.2)) k))) ∧
  (∀ (s u : State) (l : List Instr), commitSlots 8 l s = (true, u) → s.me.bs.level = some 0 → 8 ≤ u.me.bs.slot →
    s.commitCycle l = ((u.onMe fun k => { k with time := k.time + k.cl, ccyc := k.ccyc + 1 }).runEngines
      (u.cur) true true).startEnd) ∧
  (∀ s : State, s.me.bs.waits = [] → s.me.bs.tret = none → s.me.bs.uiret = false → s.me.bs.leave = none →
    s.popHazards = (none, []) → s.me.closeFault = none → s.me.endPlan.1.seg ≠ 0 →
    (hdrKind s.me.bs.hdr = 2 → s.me.masked = true → s.me.capst = true ∧ s.storesOut = false) →
    (s.atSafePoint = false ∨ s.me.sliceOver s.me.time = false) →
    let t := s.endCycle
    let kind := hdrKind s.me.bs.hdr
    let pops (i : Nat) : Bool := (hdrPop s.me.bs.hdr).getLsbD i
    t.me.pc = s.me.endPlan.1 ∧ t.me.loops = s.me.endPlan.2 ∧ t.me.phase = .run ∧
      t.me.bs = { BundleState.reset with arrived := decide (s.me.endPlan.1.seg ≠ s.me.pc.seg) } ∧
      t.me.vrb = (if kind = 4 then (s.me.vrb + 31) % 32 else s.me.vrb) ∧
      t.me.prb = (if kind = 4 then (s.me.prb + 7) % 8 else s.me.prb) ∧
      t.me.masked = (if kind = 2 then false else s.me.masked) ∧
      t.me.q0 = (if pops 0 then s.me.q0.tail else s.me.q0) ∧ t.me.q1 = (if pops 1 then s.me.q1.tail else s.me.q1) ∧
      t.me.q2 = (if pops 2 then s.me.q2.tail else s.me.q2) ∧ t.me.q3 = (if pops 3 then s.me.q3.tail else s.me.q3) ∧
      (∀ (n : Fin 8) (i : Nat) (p : Pipe), hdrPop s.me.bs.hdr = 1 <<< n.val → 4 ≤ n.val →
        s.me.inPipe[n.val - 4]?.join = some i → (s.cluster (clusterOf s.cur)).pipes[i]?.join = some p →
        (t.cluster (clusterOf s.cur)).pipes[i]?.join =
          some { p with entries := p.entries.tail, freed := p.freed ++ [s.me.time + 60] }) ∧
      t.me.rf = s.me.rf ∧ t.me.lat = s.me.lat ∧ t.me.ports = s.me.ports ∧ t.me.time = s.me.time ∧ t.mem = s.mem) ∧
  (∀ (k : Core) (e : LoopEntry) (r : List LoopEntry),
    let kind := hdrKind k.bs.hdr
    (∀ t, k.bs.branch = some t → k.endPlan = (t, if k.ui.active then k.loops else unwind t k.loops)) ∧
    (k.bs.branch = none →
      ((kind = 3 ∨ kind = 4) → k.loops = e :: r →
        (2 ≤ e.count.toNat → k.endPlan = (⟨e.seg, e.start⟩, { e with count := e.count - 1 } :: r)) ∧
        (e.count.toNat ≤ 1 → k.endPlan = if e.endB.toNat + 1 < k.bcnt
          then (⟨k.pc.seg, BitVec.ofNat 7 (e.endB.toNat + 1)⟩, r) else (k.nextSegment, unwind k.nextSegment r))) ∧
      (kind ≠ 3 → kind ≠ 4 → kind ≠ 5 → k.pc.bix.toNat + 1 < k.bcnt →
        k.endPlan = (⟨k.pc.seg, BitVec.ofNat 7 (k.pc.bix.toNat + 1)⟩, k.loops)) ∧
      (kind = 5 ∨ (kind ≠ 3 ∧ kind ≠ 4 ∧ k.bcnt ≤ k.pc.bix.toNat + 1) →
        k.endPlan = (k.nextSegment, if k.ui.active then k.loops else unwind k.nextSegment k.loops))) ∧
    (∀ g, k.segment = some g → k.nextSegment = ⟨g.next, 0⟩) ∧
    ((kind = 3 ∨ kind = 4) → k.ui.active = true → k.closeFault = some .illopd) ∧
    ((kind = 3 ∨ kind = 4) → k.ui.active = false → k.loops = [] → k.closeFault = some .loopstk) ∧
    ((kind = 3 ∨ kind = 4) → k.ui.active = false → k.loops = e :: r →
      k.closeFault = if e.seg = k.pc.seg ∧ e.endB = k.pc.bix then none else some .loopstk) ∧
    (kind ≠ 3 → kind ≠ 4 → k.closeFault = none)) ∧
  (∀ s : State, s.me.bs.waits = [] →
    (∀ e, s.popHazards.1 = some e → s.endCycle = s.notePop.faultAtEnd e.1 e.2) ∧
    (s.popHazards.1 = none →
      (∀ e, s.me.closeFault = some e → s.endCycle = s.notePop.faultAtEnd e none) ∧
      (s.me.closeFault = none →
        (hdrKind s.me.bs.hdr = 2 → s.me.masked = true → s.me.capst = false →
          s.endCycle = s.notePop.faultAtEnd .illopd none) ∧
        (hdrKind s.me.bs.hdr ≠ 2 → s.me.endPlan.1.seg = 0 → s.me.bs.tret = none → s.me.bs.uiret = false →
          s.me.bs.leave ≠ some .endStrand → s.endCycle = s.notePop.faultAtEnd .illenc none) ∧
        (s.endFault = none → s.popHazards.2 ≠ [] → ∃ w, s.endCycle = s.endFreeze w)))) ∧
  (∀ (s : State) (n : Fin 8), hdrPop s.me.bs.hdr = 1 <<< n.val → s.popHazards = match s.head n with
    | .entry .. => (none, [])
    | .empty (.fault c a) => (some (c, a), [])
    | .empty (.freeze w) => (none, [w])
    | .empty (.val _) => (none, [])) ∧
  (∀ s : State, hdrPop s.me.bs.hdr = 0 → s.popHazards = (none, [])) ∧
  (∀ (s : State) (c : CoreId) (a : BitVec 56) (t : Nat), (s.core c).halves[0] = .expanding a t → t ≤ s.now →
    (s.core c).halves[1] = .empty →
    let e := s.expand c (s.core c).halfCtx[0] a
    (e.1.core c).halves[1] = .empty →
    exec (.segmentExpanded c) s = .next (e.1.onCore c fun k => { k with
      halves := k.halves.set 0 (if (e.2.bad = some .lease ∨ e.2.bad = some .eccunc) ∧
        ¬((s.core c).run.isSome = true ∧ (s.core c).pc.seg = a ∧ (s.core c).halfCtx[0] = (s.core c).ctx)
          then .empty else .full e.2) }))

/-- A free core of a slice in force picks up a released record: the registers are zero but g60 to g63, which hold
the carried values, latches and ports are empty, clean lines leave the L1 (R10, R14, R123, R323). A gang entry
that fits starts its members, a record's release follows its tick, and a context switch that has nothing to wait
for saves one context and enters the next (R249, R276, R303, R308). What a save writes: in the context's save area on
the core the register image in the order of R16's table, and the control block with its fields at their places (R250). -/
def Obligations.RecordsArePickedUp : Prop :=
  (∀ (s : State) (c : CoreId) (q : QRec), (s.core c).isFree = true → (s.cluster (clusterOf c)).retained = false →
    (s.core c).time ≤ s.now → (s.core c).inSlice = true → (s.core c).switchDue = false →
    (s.core c).sliceOver s.now = false →
    (s.cluster (clusterOf c)).resv = none → (s.cluster (clusterOf c)).queue = [q] → q.released.isSome = true →
    q.rcd.ctx = (s.core c).ctx → q.gang = none → (s.ctx (s.core c).ctx).saveb = 0 →
    ∃ t r, exec (.pickup c) s = .next t ∧ (t.core c).run = some r ∧ r.rcd = q.rcd ∧ r.uid = q.uid ∧
      r.launch = q.launch ∧ (t.core c).phase = .run ∧ (t.core c).pc = q.rcd.place ∧
      (t.cluster (clusterOf c)).queue = [] ∧ (t.core c).loops = [] ∧ (t.core c).lat = Latches.reset ∧
      (t.core c).ports = Ports.reset ∧ (t.core c).l1.all (fun e => e.dirty != 0) = true ∧
      (t.core c).spad = (s.core c).spad ∧ t.mem = s.mem ∧
      (∀ i, i < 60 → (t.core c).rf.read i = 0) ∧ (t.core c).rf.read 60 = q.rcd.cv0.toNat ∧
      (t.core c).rf.read 61 = q.rcd.cv1.toNat ∧ (t.core c).rf.read 62 = q.rcd.cv2.toNat ∧
      (t.core c).rf.read 63 = q.rcd.cv3.toNat) ∧
  (∀ (s : State) (k : ClusterId) (q : QRec) (g : Gang) (e : List (BitVec 56)), let c := coreOf k 0
    (s.core c).isFree = true → (s.core c).inSlice = true → s.larkChoice c = .gang q → q.gang = some (g, e) →
    exec (.gangRelease k) s = .next ((s.startGang k q g e).poke k)) ∧
  (∀ (s : State) (k : ClusterId), let u := s.settleLadders
    exec (.recordRelease k) s = .next (((u.cluster k).queue.foldl (fun s q => s.releaseOne k q) u).poke k)) ∧
  (∀ (s : State) (k : ClusterId) (q : QRec) (l : Launch), q.released = none → q.launch.bind s.launch = some l →
    heldBack l q (s.tick l.origin) = false → serialLt 32 (s.tick l.origin) (q.dueTick l) = false →
    (s.cluster k).queue = [q] →
    (((s.releaseOne k q).cluster k).queue.map (·.released)) = [some s.gt]) ∧
  (∀ (s : State) (c : CoreId) (y : CtxId), (s.core c).phase = .switching → (s.core c).fl = [] →
    let u : State := { s with cur := c }
    u.strandQuiet c = true → u.carriedRace = none → u.nextOther c = some y →
    exec (.contextSwitch c) s = .next ((((u.onMe fun k => { k with pc := u.me.endPlan.1 }).eagerRelease.2).saveCtx
      c).enterCtx c (some y))) ∧
  (∀ (s : State) (c : CoreId) (r : Running), (s.core c).run = some r → (s.ctx (s.core c).ctx).saveb ≠ 0 →
    let a := (s.ctx (s.core c).ctx).saveb.toNat + 8192 * c.toNat
    let t := s.saveCtx c
    t.mem.read a 5632 = (s.core c).rf.image ∧ t.mem.read (a + 5632) 128 = controlBlock (s.core c) s.die.revCount % 2 ^ 1024 ∧
    (∀ x, (x < a ∨ a + 5760 ≤ x) → t.mem.byte x = s.mem.byte x) ∧
    (t.core c).run = none ∧ (t.core c).phase = .idle ∧ (t.core c).lat = Latches.reset ∧
    (t.core c).ports = Ports.reset ∧ (t.core c).rf = (s.core c).rf ∧ (t.core c).spad = (s.core c).spad) ∧
  (∀ r : RegFile, let b (o n : Nat) : Nat := getBytes r.image o n
    r.image < 2 ^ 45056 ∧
    (∀ i : Fin 64, b (8 * i.val) 8 = r.g[i].toNat ∧ b (640 + 64 * i.val) 64 = r.v[i].toNat) ∧
    (∀ i : Fin 16, b (512 + 8 * i.val) 8 = r.o[i].toNat ∧ b (4736 + 2 * i.val) 2 = r.p[i].toNat ∧
      b (4768 + 16 * i.val) 16 = r.h[i].toNat ∧ b (5536 + 4 * i.val) 4 = r.f[i].toNat) ∧
    (∀ i : Fin 8, b (5024 + 64 * i.val) 64 = r.c[i].toNat ∧ b (5600 + 4 * i.val) 4 = r.z[i].toNat)) ∧
  (∀ (k : Core) (r : Running) (rev : BitVec 32), k.run = some r → k.vrb < 32 → k.prb < 8 → k.pctx.lim < 32 →
    k.pctx.divCtl < 16 → k.pctx.divVec < 16 → k.pctx.divMat < 16 → k.pctx.divCpy < 16 →
    let b (o n : Nat) : Nat := getBytes (controlBlock k rev) o n
    b 0 64 = loopsWord k.loops ∧ b 64 8 = k.pc.abs.toNat ∧
    b 72 8 = r.rcd.w1.toNat / 16 * 16 + r.rflg.toNat % 16 ∧ b 80 8 = r.rcd.w2.toNat ∧ b 88 8 = r.rcd.w3.toNat ∧
    bits (b 96 8) 63 61 = k.prb ∧ bits (b 96 8) 60 56 = k.vrb ∧
    bits (b 96 8) 55 0 = (if k.pctx.satf then 2 ^ 56 - 1 else k.pctx.ec.toNat) ∧
    bits (b 104 8) 9 0 = k.pctx.ncs.toNat ∧ bits (b 104 8) 10 10 = boolCode k.pctx.gmode ∧
    bits (b 104 8) 15 11 = k.pctx.lim ∧ bits (b 104 8) 19 16 = k.pctx.divCtl ∧ bits (b 104 8) 23 20 = k.pctx.divVec ∧
    bits (b 104 8) 27 24 = k.pctx.divMat ∧ bits (b 104 8) 31 28 = k.pctx.divCpy ∧ bits (b 104 8) 63 32 = rev.toNat ∧
    (∀ g, k.mx.cfg = some g → b 112 4 = g.fa.toNat ∧ b 116 4 = g.fb.toNat ∧ b 120 4 = g.fd.toNat) ∧
    (k.mx.cfg = none → b 112 12 = 0) ∧ b 124 4 = k.pctx.scl.toNat)

/-! ## Launches and streams -/

/-- A command stream whose head packet the die may read, its operation op (R290, R387). -/
def Sys2Proof.Claims.Readable (s : State) (x : CtxId) (op : Nat) : Prop :=
  let c := s.ctx x
  c.ena = true ∧ c.csh ≠ c.cst ∧ c.heldC = [] ∧ s.die.stopped = false ∧ s.die.powered = true ∧
  (s.launches.any fun l => l.ctx == x && l.step == .held) = false ∧ s.packet x % 256 = op

/-- The head has moved past its packet, and an identifier is taken. -/
def Sys2Proof.Claims.pastPacket (s : State) (x : CtxId) : State :=
  { s.onCtx x fun c => { c with csh := c.csh + 1 } with nextId := s.nextId + 1 }

/-- Packets are accepted in order, one at a time (R289 to R294, R309, R352). A nop completes at once: its record, with
CTAG, the cause, CSEQ and the time, goes to the completion ring and nothing else changes. A launch, a gang launch, an
open or a close is accepted as its operation says. An open that is not refused has its stream from then on, its
descriptor read in the packet's context (the model's reading, log 23); a close of a stream with nothing left frees it. -/
def Obligations.LaunchPacketsAreTaken : Prop :=
  (∀ (s : State) (x : CtxId), Readable s x 0 →
    let c := s.ctx x
    let v := s.packet x
    let a := c.cqb.toNat + 32 * (c.cqt.toNat % 2 ^ c.cqn.toNat)
    (c.cqt - c.cqh).toNat < 2 ^ c.cqn.toNat →
    ∃ t, exec (.launchNop x) s = .next t ∧
      t.mem.read a 32 = getBytes v 56 8 + 2 ^ 64 * ((if packetOk v then 0 else Cause.illopd.code) + 2 ^ 16 * c.cseq.toNat)
        + 2 ^ 192 * (s.gt % 2 ^ 64) ∧
      (∀ b, b < a ∨ a + 32 ≤ b → t.mem.byte b = s.mem.byte b) ∧
      (t.ctx x).csh = c.csh + 1 ∧ (t.ctx x).cqt = c.cqt + 1 ∧ (t.ctx x).cseq = c.cseq + 1 ∧ (t.ctx x).heldC = [] ∧
      t.launches = s.launches ∧ t.cores = s.cores ∧ t.streams = s.streams ∧ t.joins = s.joins) ∧
  (∀ (s : State) (x : CtxId) (op : Nat), Readable s x op →
    let v := s.packet x
    let l := launchOf s.nextId x v s.hostVc
    (op = 1 ∨ 4 < op → exec (.launch x) s = .next (((pastPacket s x).acceptLaunch l v).nextPacket x)) ∧
    (op = 2 → exec (.launchGang x) s = .next (((pastPacket s x).acceptLaunch l v).nextPacket x)) ∧
    (op = 3 → exec (.streamOpen x) s = .next (((pastPacket s x).acceptOpen l v).nextPacket x))) ∧
  (∀ (s : State) (l : Launch) (v : Nat), packetOk v = false →
    s.acceptLaunch l v = ({ s with launches := s.launches ++ [l] } : State).failLaunch l.id .illopd) ∧
  (∀ (s : State) (x : CtxId) (d : Nat) (t : Stream), Readable s x 3 →
    let v := s.packet x
    let n := bits v 14 9
    packetOk v = true → s.stream n = none → getBytes v 16 8 % 128 = 0 →
    (pastPacket s x).readVirt x (getBytes v 16 8) 128 = some d → (pastPacket s x).newStream x d = some t →
    ∃ u, exec (.streamOpen x) s = .next u ∧ u.stream n = some t ∧ t.ctx = x ∧ t.origin = BitVec.ofNat 64 d ∧
      t.period = BitVec.ofNat 32 (getBytes d 8 4) ∧ t.dloff = BitVec.ofNat 32 (getBytes d 12 4) ∧
      t.climb = getBytes d 17 1 ∧ t.rung = getBytes d 18 1 ∧ t.rungs.length = getBytes d 16 1 ∧ t.ontime = 0 ∧
      t.fseq = 0 ∧ ∀ k ∈ t.slots, k.st = .free) ∧
  (∀ (s : State) (x : CtxId) (t : Stream), Readable s x 4 →
    let v := s.packet x
    let n := bits v 14 9
    packetOk v = true → s.stream n = some t → t.ctx = x →
    (∀ m u, s.stream m = some u → u.closing = none) →
    s.streamBusy n = false → s.w3Pending n = false →
    (∀ w ∈ t.win, ∀ m, s.pageBusy x (t.vw + 2 ^ 19 * w.pos) m = false) →
    ∃ u, exec (.streamClose x) s = .next u ∧ u.stream n = none ∧ ∀ m, m ≠ n → u.stream m = s.stream m)

/-- A launch waits for counter WJ, then for START, then starts (R293, R298): a parked one goes on when its counter has
reached zero, or completes with DEPERR; at START it takes its origin; one with instances has as many live records when
every page it leases is resident; an empty one completes at its node's tick; a doorbell moves the tail, and the head
packet is read next (R290, R293, R298, R302). A launch of a stream takes its frame at once when no frame of the stream is
underway, and otherwise when the table tick of its acceptance ends, since such a frame may still change the ladder (R310
as the model reads it, log 22). -/
def Obligations.LaunchesWaitAndStart : Prop :=
  (∀ (s : State) (id j : Nat) (l : Launch), s.launch id = some l → l.step = .parked → l.wj = some j →
    (s.join j).parked.contains id = false →
    exec (.launchUnpark id) s = .next ((if l.deperr then s.completeLaunch id
      else (s.setLaunch { l with step := .start }).tryStart id).unhold l.ctx)) ∧
  (∀ (s : State) (id : Nat) (l : Launch), s.launch id = some l → l.step = .start →
    (s.gt < l.startAt.toNat → exec (.launchStartDue id) s =
      .next (s.schedule (s.whenGt l.startAt.toNat) (.launchStartDue id))) ∧
    (l.startAt.toNat ≤ s.gt → exec (.launchStartDue id) s =
      .next (((s.setLaunch { l with origin := s.gt }).tryLease id).frameDue id))) ∧
  (∀ (s : State) (id : Nat) (l : Launch) (t : Stream), s.launch id = some l → l.step = .frame →
    s.stream l.strm.toNat = some t →
    l.sv = true →
    exec (.launchStartDue id) s = .next (if (s.launches.any fun q => q.frameOf l.strm.toNat) = true ∧
        s.tickOf t.origin.toNat ≤ l.accepted ∧ s.now < s.tickEnds t.origin.toNat
      then s.schedule (s.tickEnds t.origin.toNat) (.launchStartDue id)
      else s.makeFrame id)) ∧
  (∀ (s : State) (id : Nat) (l : Launch), s.launch id = some l → l.step = .start → l.startAt.toNat ≤ s.gt →
    (∀ e ∈ l.leases, ∀ a, e.vbase ≤ a → a < e.vbase + e.len →
      s.inWindow l.ctx a = true ∨ ∃ m, s.mapping l.ctx a = some m ∧ m.present = true) →
    l.faultSeqs = [] → l.frNext = none → l.sv = false → l.pfx = 0 → l.gang = none → 0 < l.count →
    l.live = 0 →
    ∃ t u, exec (.launchStartDue id) s = .next t ∧ t.launch id = some u ∧ u.step = .live ∧ u.live = l.count ∧
      u.created = l.count ∧ u.origin = s.gt ∧ u.cause = l.cause) ∧
  (∀ (l : Launch) (i : Nat), l.gang = none → l.entry.toNat % 256 = 0 → l.node < 2 ^ 12 → l.tmpl < 2 ^ 12 → i < 2 ^ 24 →
    let r := l.instRecord i
    r.inst = i ∧ r.node = l.node ∧ r.tmpl = l.tmpl ∧ r.ctx = l.ctx ∧ r.place = ⟨l.entry, 0⟩ ∧ r.flg = 0 ∧
      r.cv0 = l.param) ∧
  (∀ (s : State) (id : Nat) (l : Launch), s.launch id = some l → l.step = .empty →
    let t := (l.base.toNat + neRoff (s.nodeEntry l.ctx l.tmpl l.node)) % 2 ^ 32
    exec (.emptyLaunchComplete id) s = .next (if serialLt 32 (s.tick l.origin) t
      then s.schedule (s.whenTick l.origin t) (.emptyLaunchComplete id) else s.completeLaunch id)) ∧
  (∀ (s : State) (id j : Nat) (l : Launch), s.launch id = some l → l.wj = some j → (s.join j).value ≠ 0 →
    (s.parkedOf l.ctx < 64 → s.tryPark id = (s.setLaunch { l with step := .parked }).setJoin j
      { s.join j with parked := (s.join j).parked ++ [id] }) ∧
    (64 ≤ s.parkedOf l.ctx → s.tryPark id = s.setLaunch { l with step := .held })) ∧
  (∀ (s : State) (x : CtxId) (tail : BitVec 32), s.die.posted = [] → ∃ t, exec (.commandDoorbell x tail) s = .next t ∧
    (t.ctx x).cst = tail ∧ (∀ y, y ≠ x → t.ctx y = s.ctx y) ∧ t.mem = s.mem ∧ t.launches = s.launches ∧
    ∀ op, Readable (s.onCtx x fun c => { c with cst := tail }) x op →
      t.events = insEvent s.now (if op = 0 then .launchNop x else if op = 2 then .launchGang x
        else if op = 3 then .streamOpen x else if op = 4 then .streamClose x else .launch x) s.events)

/-! ## The host -/

/-- The host's register writes and requests (R289, R308, R373, R381, R391, R392, R393, R405, R406): a register
takes a value in its range and ignores another, a base only while ENA is 0; GTSET sets the timer while no launch is
live (what makes a launch live: log 35, the model's reading), its intervals measured on; a replay has the leases of
waiting launches tried again; CLR clears one total; a reading is signed and numbered, its STAMP that of the total (log
32, the model's reading); an attestation holds the identifier and the nonce, at an open place (log 12, the model's choice).
Writes take effect in their order; they land in memory, but not in the tag region nor in a byte of an enabled tree's
descriptor or an open link block that the host may not change; a snoop to own a line takes it from its slice, any other
changes nothing (R329, R333, R352, R396). -/
def Obligations.HostReadsAndWrites : Prop :=
  (∀ (s : State) (v : W64), s.die.powered = true → s.die.held = false → s.die.posted = [] →
    exec (.hostRegisterWrite 0x100808 v) s = .next (if 1 ≤ v.toNat ∧ v.toNat < 2 ^ 31
      then { s with die := { s.die with starv := v.toNat } } else s) ∧
    exec (.hostRegisterWrite 0x100000 v) s = .next (s.onCtx 0 fun c =>
      if c.ena = false ∧ v.toNat % 4096 = 0 then { c with csb := v } else c) ∧
    exec (.hostRegisterWrite 0x107008 v) s = .next { s with die := { s.die with hswd := v } } ∧
    exec (.hostRegisterWrite 0x100090 v) s = .next (s.doorbell 1 (BitVec.ofNat 32 v.toNat))) ∧
  (∀ (s : State) (v : W64),
    (s.anyLive = true → exec (.gtset v) s = .next s) ∧
    (s.anyLive = false → ∃ t, exec (.gtset v) s = .next t ∧ t.gt = v.toNat ∧ t.mem = s.mem ∧ t.cores = s.cores ∧
      t.die.timer.okAt - v.toNat = s.die.timer.okAt - s.gt ∧ t.die.timer.next - v.toNat = s.die.timer.next - s.gt)) ∧
  (∀ (s : State) (v : W64) (l : Launch), s.launches = [l] → l.step = .lease →
    exec (.replay v) s = .next (if l.faultSeqs.any fun n => decide (n ≤ v.toNat) then s.retryLease l.id else s)) ∧
  (∀ (s : State) (a b : Fin 17), ∃ t, exec (.totalClr a) s = .next t ∧
    t.die.totals[b] = (if b = a then { s.die.totals[a] with tot := 0, hseq := 0, sati := false } else s.die.totals[b]) ∧
    t.mem = s.mem ∧ t.cores = s.cores) ∧
  (∀ s : State, s.die.held = false → ∃ t, exec .attest s = .next t ∧ t.die.scstat = 1 ∧
    t.mem.read s.die.scbuf.toNat 8 = s.die.devid.toNat ∧
    (∃ p, p ≤ 24 ∧ t.mem.read (s.die.scbuf.toNat + 8 + p) 32 = s.mem.read s.die.scarg.toNat 32 ∧
      ∀ i, i < 24 → ∃ j, j < 32 ∧ (t.mem.byte (s.die.scbuf.toNat + 8 + if i < p then i else i + 32)).toNat =
        getBytes s.die.fwDigest.toNat j 1) ∧ t.cores = s.cores) ∧
  (∀ (s : State) (a : Fin 17), s.die.held = false → s.die.scarg.toNat % 32 = a.val → s.readingsSpent = false →
    ∃ t, exec .energyReading s = .next t ∧ t.die.scstat = 1 ∧ t.die.rdSeq = s.die.rdSeq + 1 ∧
      t.mem.read s.die.scbuf.toNat 64 = s.die.rdSeq.toNat
        + 2 ^ 64 * (if h : a.val < 16 then (s.ctxs[a.val]).tenant.toNat else 0)
        + 2 ^ 128 * (s.die.totals[a]).stamp.toNat + 2 ^ 192 * (s.die.totals[a]).tot.toNat + 2 ^ 288 * a.val
        + 2 ^ 296 * (if (s.die.totals[a]).sati then 4 else 0)) ∧
  (∀ s : State, s.die.held = false → s.die.readings.any (fun r => r.seq == s.die.scarg) = false →
    exec .fetchReading s = .next { s with die := { s.die with scstat := 0xE2 } }) ∧
  (∀ (s : State) (r : Reading), s.die.held = false → s.die.readings = [r] → r.seq = s.die.scarg → r.body.length = 64 →
    ∃ t, exec .fetchReading s = .next t ∧ t.die.scstat = 1 ∧ t.mem.read s.die.scbuf.toNat 64 = ofBytes r.body) ∧
  (∀ s : State, s.die.held = true → exec .attest s = .next { s with die := { s.die with scstat := 0xE1 } }) ∧
  (∀ (s : State) (a : BitVec 52) (data : List Byte), (∀ k, (s.cluster k).retained = false) → s.die.posted = [] →
    (∀ n l, s.sline n = some l → l.marker = none) →
    ∃ t, exec (.hostWriteArrive a data) s = .next t ∧ t.cores = s.cores ∧
      ∀ b, t.mem.byte b = if a.toNat ≤ b ∧ b < a.toNat + data.length ∧ s.hostBarred b = false
        then data.getD (b - a.toNat) 0 else s.mem.byte b) ∧
  (∀ (s : State) (a : BitVec 52) (data : List Byte) (i : Instr) (r : List Instr), s.die.posted = i :: r →
    i ≠ .hostWriteArrive a data → exec (.hostWriteArrive a data) s =
      .next { s with die := { s.die with posted := i :: r ++ [.hostWriteArrive a data] } }) ∧
  (∀ (s : State) (a : BitVec 52) (inval : Bool),
    (a.toNat < 0x4000000000 ∨ inval = false → exec (.hostSnoop a inval) s = .next s) ∧
    (0x4000000000 ≤ a.toNat → inval = true → ∃ t, exec (.hostSnoop a inval) s = .next t ∧
      t.sline (lineOf a.toNat) = none))

/-! ## Bracken for the host -/

/-- BKEN and the snapshot requests (R332, R333, R401 to R403). -/
def Obligations.SnapshotRequestsAreServed : Prop :=
  (∀ (s : State) (n : BitVec 6) (t : Tree), s.tree n.toNat = none →
    readTree s.mem (s.die.bktb.toNat + 128 * n.toNat) = some t →
    ∃ u, exec (.bkenEnable n) s = .next u ∧ u.tree n.toNat = some t ∧ u.die.bken.getLsbD n.toNat = true ∧
      u.treeCount t .nodes = 0 ∧ u.treeCount t .free = t.nn - 1 ∧ u.treeCount t .coll = 0 ∧ u.treeCount t .evict = 0) ∧
  (∀ (s : State) (n : BitVec 6),
    (s.tree n.toNat).isSome = true ∨ readTree s.mem (s.die.bktb.toNat + 128 * n.toNat) = none →
    exec (.bkenEnable n) s = .next s) ∧
  (∀ (s : State) (n : BitVec 6) (t : Tree), s.tree n.toNat = some t →
    ∃ u, exec (.bkenDisable n) s = .next u ∧ u.tree n.toNat = none ∧ u.die.bken.getLsbD n.toNat = false ∧
      ∀ m, m ≠ n.toNat → u.tree m = s.tree m) ∧
  (∀ (s : State), s.tree (s.die.bkxarg.toNat % 64) = none →
    let u := s.bkxDone 0x80 Cause.illopd.code 0
    exec .snapshotExport s = .next u ∧ exec .snapshotImport s = .next u ∧ exec .snapshotUnpin s = .next u) ∧
  (∀ (s : State) (t : Tree), let i := bits s.die.bkxarg.toNat 25 6
    let b := s.die.bkxbuf.toNat
    let depth := s.nodeDepth t i
    let pages := payPages s (t.payAt i)
    let len := 64 + 4 * t.g * depth + 2048 + 2 ^ 19 * pages.length
    s.tree (s.die.bkxarg.toNat % 64) = some t → i < t.nn → s.nodeV t i = true → s.nodeP t i = true →
    (∀ e ∈ s.poison, e.2 = false) → len ≤ s.die.bkxlen.toNat →
    b + 64 ≤ t.nodeAt i ∨ t.nodeAt i + 128 ≤ b →
    ∃ u, exec .snapshotExport s = .next u ∧ u.die.bkxstat = BitVec.ofNat 64 (1 + 2 ^ 32 * i) ∧ u.cores = s.cores ∧
      u.mem.read b 64 = (1 + 2 ^ 8 * t.gl + 2 ^ 12 * pages.length + 2 ^ 20 * depth + 2 ^ 44 * s.die.devid.toNat
        + 2 ^ 64 * len) % 2 ^ 512) ∧
  (∀ (s u : State) (t : Tree) (w : Walk), let tn := s.die.bkxarg.toNat % 64
    let b := s.die.bkxbuf.toNat
    let w0 := s.mem.read b 8
    let depth := bits w0 43 20
    let npg := bits w0 18 12
    s.tree tn = some t → bits w0 7 0 = 1 → bit w0 19 = false → depth ≠ 0 → npg ≤ 64 →
    s.mem.read (b + 16) 48 = 0 → bits w0 11 8 = t.gl →
    s.mem.read (b + 8) 8 ≤ s.die.bkxlen.toNat → (∀ e ∈ s.poison, e.2 = false) →
    s.walkImage tn t (b + 64) depth Walk.start = (u, w) →
    (depth ≤ w.j → u.nodeP t w.cur = true → exec .snapshotImport s = .next (u.bkxDone 4 0 w.cur)) ∧
    (¬(depth ≤ w.j ∧ u.nodeP t w.cur = true) →
      let r := u.makeRoom tn t w.path (depth - w.j) t.nn
      (r.treeCount t .free < depth - w.j ∨ (r.ctx t.own).kpfree.toNat < npg →
        exec .snapshotImport s = .next (r.bkxDone 2 0 0)) ∧
      (depth - w.j ≤ r.treeCount t .free → npg ≤ (r.ctx t.own).kpfree.toNat →
        ∃ v cur, exec .snapshotImport s = .next v ∧ cur = (r.newNodesImage t (b + 64) (depth - w.j) w.j w.cur w.h).2 ∧
          v.die.bkxstat = BitVec.ofNat 64 (1 + 2 ^ 32 * cur) ∧ v.nodePin t cur = 1))) ∧
  (∀ (s : State) (t : Tree), let i := bits s.die.bkxarg.toNat 25 6
    s.tree (s.die.bkxarg.toNat % 64) = some t → i ≠ 0 → i < t.nn → s.nodeV t i = true → s.nodePin t i ≠ 0 →
    (∀ e ∈ s.poison, e.2 = false) →
    ∃ u, exec .snapshotUnpin s = .next u ∧ u.nodePin t i = s.nodePin t i - 1 ∧
      u.die.bkxstat = BitVec.ofNat 64 (1 + 2 ^ 32 * i))

/-! ## The video path -/

/-- Encoders and decoders (R357 to R361, R367, R411): entries arrive in order; an encoder takes arrived entries while
fewer than four ended frames await coding; a whole RAW tile of a good header lands behind the tiles before it, padded
with zeros to 16 bytes; a coded frame makes its slot READY under its header; a free decoder takes the next job, and the
job's end writes its status word and moves DJH. -/
def Obligations.EncodersAndDecodersRun : Prop :=
  (∀ (s : State) (e : Fin 8) (a r : List (StrmId × QEntry × Bool)) (n : StrmId) (q : QEntry),
    (s.enc e).queue = a ++ (n, q, false) :: r → a.all (·.2.2) = true →
    exec (.encoderEntryArrive e) s = .next ((s.onEnc e fun c => { c with queue := a ++ (n, q, true) :: r }).schedule s.now
      (.encoderTakeEntry e))) ∧
  (∀ (s : State) (e : Fin 8), (4 ≤ (s.enc e).ended.length ∨ (s.enc e).queue = [] ∨
      ∃ n q r, (s.enc e).queue = (n, q, false) :: r) → exec (.encoderTakeEntry e) s = .next s) ∧
  (∀ (s : State) (e : Fin 8) (strm : StrmId) (q : QEntry) (t : Stream) (h : TileHdr) (x : RSlot),
    let n := strm.toNat
    let k := h.rseq % t.slots.length
    let len := (h.bytes + 15) / 16 * 16
    let at_ := t.obase + t.slotsz * k + 64 + x.written
    (s.enc e).queue = [(strm, q, true)] → (s.enc e).ended = [] → (s.enc e).takes = [] → s.stream n = some t →
    tileHdr q.data.toNat = some h → h.bytes ≤ 64 → h.last = false → s.tileOk t n h = true → t.codec = 0 →
    t.slots[k]? = some x → x.written + len + 64 ≤ t.slotsz →
    ∃ (u : State) (t' : Stream) (x' : RSlot), exec (.encoderTakeEntry e) s = .next u ∧ (u.enc e).queue = [] ∧
      u.mem.read at_ len = q.data.toNat % 2 ^ (8 * h.bytes) ∧
      (∀ b, b < at_ ∨ at_ + len ≤ b → u.mem.byte b = s.mem.byte b) ∧
      u.stream n = some t' ∧ t'.slots[k]? = some x' ∧ x'.tiles = x.tiles + 1 ∧ x'.written = x.written + len ∧
      x'.st = .prod) ∧
  (∀ (s : State) (e : Fin 8) (strm : StrmId) (q : QEntry) (t : Stream), (s.enc e).queue = [(strm, q, true)] →
    (s.enc e).ended = [] → (s.enc e).takes = [] → (s.enc e).skip = [] → s.stream strm.toNat = some t →
    tileHdr q.data.toNat = none →
    ∃ (u : State) (t' : Stream), exec (.encoderTakeEntry e) s = .next u ∧ u.stream strm.toNat = some t' ∧
      t'.tdrop = t.tdrop + 1 ∧ t'.slots = t.slots) ∧
  (∀ (s : State) (e : Fin 8) (strm : StrmId) (k : Nat) (r : List (StrmId × Nat)) (t : Stream) (x : RSlot),
    (s.enc e).ended = (strm, k) :: r → s.stream strm.toNat = some t → t.slots[k]? = some x →
    t.link = 0 ∨ t.link + 128 ≤ t.obase + t.slotsz * k ∨ t.obase + t.slotsz * k + 64 ≤ t.link + 48 →
    ∃ (u : State) (t' : Stream) (x' : RSlot) (len : Nat) (ovf : Bool), exec (.frameCoded e) s = .next u ∧
      (u.enc e).ended = r ∧ u.stream strm.toNat = some t' ∧ t'.slots[k]? = some x' ∧ x'.st = .ready ∧
      t'.donec = t.donec + 1 ∧ t'.coded = t.coded + 1 ∧ len ≤ t.slotsz - 64 ∧
      u.mem.read (t.obase + t.slotsz * k) 64 = (x.rseq.toNat + 2 ^ 32 * x.fseq.toNat + 2 ^ 64 * len + 2 ^ 96 * x.tiles
        + 2 ^ 128 * (s.gt % 2 ^ 64) + 2 ^ 192 * (1 + (if ovf then 6 else 0)
          + (if t.gop = 0 then (if t.coded = 0 then 8 else 0) else if t.coded % t.gop = 0 then 8 else 0)
          + 16 * x.rung)) % 2 ^ 512) ∧
  (∀ (s : State) (d : Fin 4) (x : CtxId) (i : BitVec 32), s.decs[d] = none → s.nextJob x = some i →
    let a := s.jobAddr x i.toNat
    let bs := toBytes (s.mem.read (a + 8) 4) (s.mem.read (s.mem.read a 8) (s.mem.read (a + 8) 4))
    ∃ u t, exec (.decodeJob d x) s = .next u ∧ u.decs[d] = some (x, i.toNat) ∧ u.mem = s.mem ∧ u.ctxs = s.ctxs ∧
      (t, .decodeJobDone d (s.mem.read (a + 12) 1) bs (s.jobBad a)) ∈ u.events) ∧
  (∀ (s : State) (d : Fin 4) (x : CtxId) (i codec : Nat) (bs : List Byte) (bad : Bool), s.decs[d] = some (x, i) →
    let a := s.jobAddr x i
    ∃ u, exec (.decodeJobDone d codec bs bad) s = .next u ∧ u.decs[d] = none ∧
      (u.ctx x).djh = (s.ctx x).djh + 1 ∧
      u.mem.read (a + 40) 8 = (if bad then 3
        else 1 + (if Config.decodedBad codec bs then 2 else 0) + 2 ^ 32 * (Config.decodedFrames codec bs % 2 ^ 32)) ∧
      (bad = true → ∀ b, b < a + 40 ∨ a + 48 ≤ b → u.mem.byte b = s.mem.byte b))

/-! ## Power, time and errors of the part -/

/-- Retention, slice errors, the timer's discipline, pressure, ageing, the harvest, trips and power-up (R254, R286 to
R288, R374 to R378, R386 to R389). The trim of an exchange is a free value of the model within the spec's bound (log
27). When trips fall due and whom they name (log 30), and what a cut of the rail keeps and a save waits for (log 31), are
the model's readings. -/
def Obligations.PowerManagementSteps : Prop :=
  (∀ (s : State) (k : ClusterId), (s.cluster k).retained = false →
    (s.mayRetain k = false → exec (.retentionEntry k) s = .next s) ∧
    (s.mayRetain k = true → ∃ t, exec (.retentionEntry k) s = .next t ∧ (t.cluster k).retained = true ∧
      (t.cluster k).queue = (s.cluster k).queue)) ∧
  (∀ (s : State) (k : ClusterId) (lost : Bool),
    ((s.cluster k).retained = false → exec (.retentionWake k lost) s = .next s) ∧
    ((s.cluster k).retained = true → ∃ t, exec (.retentionWake k lost) s = .next t ∧ (t.cluster k).retained = false ∧
      (lost = false → (t.cluster k).queue = (s.cluster k).queue ∧ t.mem = s.mem ∧
        ∀ c, (t.core c).rf = (s.core c).rf ∧ (t.core c).spad = (s.core c).spad ∧ (t.core c).ports = (s.core c).ports) ∧
      (lost = true → ∀ c, clusterOf c = k → (t.core c).spad = [] ∧ (t.core c).q3 = [] ∧ (t.core c).cp.cache = []))) ∧
  (∀ (s : State) (sl : BitVec 9), (∀ e ∈ s.slines, ∀ l, e.2 = some l → l.marker = none) →
    ∃ t, exec (.sliceTagError sl) s = .next t ∧ (∀ line, sliceHash (128 * line) = sl → t.sline line = none) ∧
      ∀ i, i < 256 → Tbl.get 0 t.setCtr (sl.toNat * 256 + i) = Tbl.get 0 s.setCtr (sl.toNat * 256 + i) + 2 ^ 15) ∧
  (∀ (s : State) (o : Int), s.die.timer.next ≤ s.gt → ∃ t, exec (.ptmExchange o true) s = .next t ∧
    t.die.timer.lock = true ∧ t.die.timer.hold = false ∧ t.die.timer.okAt = s.gt ∧
    t.die.timer.next = s.gt + s.die.timer.ptmiv * 1000000 ∧ t.gt = s.gt ∧ t.mem = s.mem ∧
    -50000 ≤ t.die.timer.trim ∧ t.die.timer.trim ≤ 50000 ∧ (0 < o → 0 ≤ t.die.timer.trim) ∧
    (o < 0 → t.die.timer.trim ≤ 0)) ∧
  (∀ (s : State) (o : Int), s.die.timer.next ≤ s.gt → exec (.ptmExchange o false) s = .next { s with
    die := { s.die with timer := { s.die.timer with next := s.gt + s.die.timer.ptmiv * 1000000 } } }) ∧
  (∀ (s : State) (o : Int) (ok : Bool), s.gt < s.die.timer.next → exec (.ptmExchange o ok) s =
    .next (s.schedule (s.whenGt s.die.timer.next) (.ptmExchange o ok))) ∧
  (∀ s : State, let due := s.die.timer.okAt + 10 * s.die.timer.ptmiv * 1000000
    (due ≤ s.gt → ∃ t, exec .ptmHoldover s = .next t ∧ t.die.timer.hold = true ∧
      t.die.timer.lock = false ∧ t.die.timer.trim = s.die.timer.trim ∧ t.gt = s.gt) ∧
    (s.gt < due → ∃ t, exec .ptmHoldover s = .next t ∧ t.die.timer = s.die.timer)) ∧
  (∀ (s : State) (k : ClusterId) (l : BitVec 2), ∃ t, exec (.pressureRaise k l) s = .next t ∧
    (t.cluster k).press = (if (s.cluster k).hedge.active then (s.cluster k).press
      else Nat.max (s.cluster k).press l.toNat) ∧
    (t.cluster k).calmSince = s.now ∧ t.cores = s.cores ∧ t.mem = s.mem) ∧
  (∀ (s : State) (k : ClusterId), (s.now < (s.cluster k).calmSince + 1350000 → exec (.pressureLower k) s = .next s) ∧
    ((s.cluster k).calmSince + 1350000 ≤ s.now → ∃ t, exec (.pressureLower k) s = .next t ∧
      (t.cluster k).press = (s.cluster k).press - 1 ∧ t.cores = s.cores)) ∧
  (∀ (s : State) (k : ClusterId) (v : BitVec 4), ∃ t, exec (.ageingCheck k v) s = .next t ∧
    (t.cluster k).divfl = Nat.max (s.cluster k).divfl v.toNat ∧
    ∀ c, (s.core c).phase ≠ .idle → t.core c = s.core c) ∧
  (∀ s : State, s.die.saving = none → s.gt % 100000000 = 0 → ∃ t, exec .harvest s = .next t ∧ t.die.lastHarvest = s.gt ∧
    (∀ (c : CoreId) (x : CtxId), ((t.core c).pctxOf x).ec = 0 ∧ ((t.core c).pctxOf x).satf = false ∧
      ((t.core c).pctxOf x).rtk = 0 ∧ (t.core c).rf = (s.core c).rf) ∧
    ∀ x : CtxId, (t.ctx x).gddrBytes = 0 ∧ (t.ctx x).linkBytes = 0) ∧
  (∀ (s : State) (temp : BitVec 8) (hot : List ClusterId), ∃ t, s.senseHeat temp hot = t ∧
    t.die.junction = temp.toNat ∧ t.die.hot = hot ∧ t.die.trips = s.die.trips ∧ t.cores = s.cores ∧
    (95 ≤ temp.toNat → (s.now, .thermwarn (hot.headD 0) temp) ∈ t.events) ∧
    (105 ≤ temp.toNat → (s.now, .emergencySave) ∈ t.events) ∧ (115 ≤ temp.toNat → (s.now, .railCut) ∈ t.events) ∧
    (temp.toNat ≤ 110 → (s.now, .thermalTripClear temp) ∈ t.events)) ∧
  (∀ (s : State) (k : ClusterId) (temp : BitVec 8),
    (s.die.trips[0] = true ∨ temp.toNat < 95 → exec (.thermwarn k temp) s = .next s) ∧
    (s.die.trips[0] = false → 95 ≤ temp.toNat → ∃ t, exec (.thermwarn k temp) s = .next t ∧ t.die.trips[0] = true ∧
      t.die.trips[1] = s.die.trips[1] ∧ t.cores = s.cores ∧ t.launches = s.launches)) ∧
  (∀ s : State, s.die.saving = none →
    (s.die.trips[1] = true ∨ s.die.junction < 105 → exec .emergencySave s = .next s) ∧
    (s.die.trips[1] = false → 105 ≤ s.die.junction → ∃ t, exec .emergencySave s = .next t ∧ t.die.trips[1] = true ∧
      t.die.stopped = true ∧ t.die.saving = some 1)) ∧
  (∀ (s : State) (n : Nat), s.die.saving = some n → 1 ≤ n → n ≤ 16 →
    (∀ c, s.haltedFor c (BitVec.ofNat 4 n) = true) →
    ∃ t, exec .emergencySave s = .next t ∧ (t.ctx (BitVec.ofNat 4 n)).st = 1 ∧
      t.die.saving = if n = 16 then none else some (n + 1)) ∧
  (∀ s : State, (s.die.junction < 115 → exec .railCut s = .next s) ∧
    (115 ≤ s.die.junction → ∃ t, exec .railCut s = .next t ∧ t.die.powered = false ∧ t.die.trips[2] = true ∧
      (∀ c, (t.core c).phase = .idle ∧ (t.core c).run = none) ∧ t.gt = s.gt ∧
      ∀ x : CtxId, (t.ctx x).st = if s.savedNow x = false ∧
        (s.launches.any fun l => l.ctx == x && l.step != .closing) = true then 2 else (s.ctx x).st)) ∧
  (∀ (s : State) (temp : BitVec 8) (i : Fin 3), ∃ t, exec (.thermalTripClear temp) s = .next t ∧
    t.die.trips[i] = (if temp.toNat + 5 ≤ tripAt i then false else s.die.trips[i]) ∧ t.cores = s.cores ∧ t.mem = s.mem) ∧
  (∀ (s : State) (image signature : List Byte) (aon : Bool), ∃ t, exec (.powerUp ⟨image, signature⟩ aon) s = .next t ∧
    t.gt = s.gt ∧ (aon = false → t.die.rdSeq = BitVec.ofNat 64 ((s.die.rdSeq.toNat / 2 ^ 16 + 1) * 2 ^ 16)) ∧
    if Config.vendorRefuses (Config.sha3 image) signature = true then t.die.held = true ∧ t.die.scstat = 0xE1
    else t.die.held = false ∧ t.die.powered = true ∧ t.die.fwDigest = Config.sha3 image ∧
      t.launches = [] ∧ (∀ c, (t.core c).phase = .idle) ∧ (∀ k, 3 ≤ (t.cluster k).divfl) ∧
      (aon = true → ∀ x, (t.ctx x).st = (s.ctx x).st))

/-! ## The whole machine -/

/-- Every step keeps the memory in its one canonical form: addresses strictly rising, and no byte listed that equals
what an unlisted one reads as. So equal contents are equal data in every state that is reached (the form is the model's, log 2). -/
def Obligations.StepsKeepMemoryCanonical : Prop :=
  ∀ s t : State, s.mem.wf = true → step s = .next t → t.mem.wf = true

/-- Reset leaves what the spec says (R252, R207, R250, R289, R296, R300, R308, R246, R333, R363, R367, R373, R381,
R388, R391), and memory lists nothing (the model's form of empty contents, log 2): no context runs, no stream or counter is in use, every divisor is 3,
the Sedge limit is 31 and its scale 1.0, TTLEN is 1000 ns, and the context registers are 0 with every ring's size 16 (DJN,
whose reset value R367 does not give: the model's choice, log 1). -/
def Obligations.ResetIsAsTheSpecSays : Prop :=
  let s := State.reset
  (∀ c : CoreId, (s.core c).phase = .idle ∧ (s.core c).run = none ∧ (s.core c).loops = [] ∧
    ∀ x : CtxId, let p := (s.core c).pctxOf x
      p.divCtl = 3 ∧ p.divVec = 3 ∧ p.divMat = 3 ∧ p.divCpy = 3 ∧ p.lim = 31 ∧ p.scl = 0x3F800000 ∧ p.gmode = false ∧
      p.ncs = 0 ∧ p.ec = 0 ∧ p.satf = false) ∧
  (∀ x : CtxId, let c := s.ctx x
    c.tvec = 0 ∧ c.capb = 0 ∧ c.mapn = 0 ∧ c.ena = false ∧ c.csn = 4 ∧ c.cqn = 4 ∧ c.evn = 4 ∧ c.djn = 4 ∧ c.csh = 0 ∧
    c.cst = 0 ∧ c.st = 0) ∧
  (∀ j, (s.join j).value = 0 ∧ (s.join j).own = none ∧ (s.join j).err = false) ∧
  (∀ n, s.stream n = none ∧ s.tree n = none) ∧
  s.die.ttlen = 1000 ∧ s.die.starv = 10000 ∧ s.die.bken = 0 ∧ s.die.timer.ptmiv = 10 ∧ s.mem = [] ∧ s.mem.wf = true
end

