-- ==== Sys2Proof/Laws/Memory.lean ====
section
/-! SUPPORT. Sparse tables and byte memories: reads after writes, and the canonical form every write keeps. -/

namespace Sys2Proof.Machine

/-! ### Tables -/

theorem Tbl.get_filter {α : Type} (d : α) (t : Tbl α) (k j : Nat) :
    Tbl.get d (t.filter fun e => e.1 != k) j = if j = k then d else Tbl.get d t j := by
  induction t with
  | nil => simp [Tbl.get]
  | cons e r ih =>
    obtain ⟨i, w⟩ := e
    by_cases hi : i = k
    · subst hi; simp only [List.filter_cons, bne_self_eq_false, Bool.false_eq_true, if_false, ih, Tbl.get]
      by_cases hj : j = i
      · simp [hj]
      · simp [hj, Ne.symm hj]
    · have : (i != k) = true := by simpa using hi
      simp only [List.filter_cons, this, if_true, Tbl.get, ih]
      by_cases hij : i = j
      · subst hij; simp [hi]
      · simp [hij]

theorem Tbl.get_ins {α : Type} (d : α) (k : Nat) (v : α) (t : Tbl α) (j : Nat) (h : Tbl.get d t k = d ∧ ∀ e ∈ t, e.1 ≠ k) :
    Tbl.get d (Tbl.ins k v t) j = if j = k then v else Tbl.get d t j := by
  induction t with
  | nil => simp [Tbl.ins, Tbl.get, eq_comm]
  | cons e r ih =>
    obtain ⟨i, w⟩ := e
    have hik : i ≠ k := h.2 (i, w) (by simp)
    have hr : Tbl.get d r k = d ∧ ∀ e ∈ r, e.1 ≠ k :=
      ⟨by have := h.1; simpa [Tbl.get, hik] using this, fun e he => h.2 e (by simp [he])⟩
    simp only [Tbl.ins]
    split
    · by_cases hj : k = j
      · subst hj; simp [Tbl.get]
      · have hj' : ¬ j = k := fun e => hj e.symm
        simp [Tbl.get, hj, hj']
    · simp only [Tbl.get]
      rw [ih hr]
      by_cases hij : i = j
      · subst hij; simp [hik]
      · simp [hij]

/-- A key written reads its value; every other key reads as before. -/
theorem Tbl.get_put {α : Type} [DecidableEq α] (d : α) (t : Tbl α) (k j : Nat) (v : α) :
    Tbl.get d (Tbl.put d t k v) j = if j = k then v else Tbl.get d t j := by
  simp only [Tbl.put]
  split
  · next h => rw [Tbl.get_filter]; simp [h]
  · rw [Tbl.get_ins]
    · rw [Tbl.get_filter]; by_cases h : j = k <;> simp [h]
    · refine ⟨by rw [Tbl.get_filter]; simp, fun e he => ?_⟩
      simpa using (List.mem_filter.mp he).2

theorem Tbl.wfFrom_weaken {α : Type} [DecidableEq α] (d : α) {lo hi : Option Nat} {t : Tbl α}
    (h : Tbl.wfFrom d hi t = true) (hl : ∀ l, lo = some l → ∃ u, hi = some u ∧ l ≤ u) : Tbl.wfFrom d lo t = true := by
  cases t with
  | nil => simp [Tbl.wfFrom]
  | cons e r =>
    obtain ⟨i, w⟩ := e
    simp only [Tbl.wfFrom, Bool.and_eq_true] at h ⊢
    refine ⟨⟨?_, h.1.2⟩, h.2⟩
    cases lo with
    | none => rfl
    | some l =>
      obtain ⟨u, hu, hlu⟩ := hl l rfl
      subst hu
      have := h.1.1
      simp only [decide_eq_true_eq] at this ⊢
      omega

theorem Tbl.wfFrom_filter {α : Type} [DecidableEq α] (d : α) (k : Nat) (t : Tbl α) : ∀ lo, Tbl.wfFrom d lo t = true →
    Tbl.wfFrom d lo (t.filter fun e => e.1 != k) = true := by
  induction t with
  | nil => intro lo h; simpa using h
  | cons e r ih =>
    obtain ⟨i, w⟩ := e
    intro lo h
    have hr := h
    simp only [Tbl.wfFrom, Bool.and_eq_true] at hr
    by_cases hi : (i != k) = true
    · simp only [List.filter_cons, hi, if_true, Tbl.wfFrom, Bool.and_eq_true]
      exact ⟨hr.1, ih _ hr.2⟩
    · simp only [List.filter_cons, hi]
      refine Tbl.wfFrom_weaken d (ih (some i) hr.2) (fun l hl => ⟨i, rfl, ?_⟩)
      subst hl
      have := hr.1.1
      simp only [decide_eq_true_eq] at this
      omega

theorem Tbl.wfFrom_ins {α : Type} [DecidableEq α] (d : α) (k : Nat) (v : α) (hv : v ≠ d) (t : Tbl α) : ∀ lo, Tbl.wfFrom d lo t = true →
    (∀ e ∈ t, e.1 ≠ k) → (∀ l, lo = some l → l < k) → Tbl.wfFrom d lo (Tbl.ins k v t) = true := by
  induction t with
  | nil =>
    intro lo _ _ hl
    cases lo <;> simp_all [Tbl.ins, Tbl.wfFrom]
  | cons e r ih =>
    obtain ⟨i, w⟩ := e
    intro lo h hne hl
    have hr := h
    simp only [Tbl.wfFrom, Bool.and_eq_true] at hr
    have hik : i ≠ k := hne (i, w) (by simp)
    simp only [Tbl.ins]
    split
    · next hki =>
      simp only [Tbl.wfFrom, Bool.and_eq_true, decide_eq_true_eq]
      refine ⟨⟨?_, hv⟩, ⟨hki, by simpa using hr.1.2⟩, hr.2⟩
      cases lo with
      | none => rfl
      | some l => simpa using hl l rfl
    · next hki =>
      simp only [Tbl.wfFrom, Bool.and_eq_true]
      refine ⟨hr.1, ih (some i) hr.2 (fun e he => hne e (by simp [he])) (fun l hl' => ?_)⟩
      cases hl'; omega

/-- Writing a key keeps the canonical form. -/
theorem Tbl.wf_put {α : Type} [DecidableEq α] (d : α) (t : Tbl α) (k : Nat) (v : α) (h : Tbl.wf d t = true) :
    Tbl.wf d (Tbl.put d t k v) = true := by
  simp only [Tbl.put, Tbl.wf] at *
  split
  · exact Tbl.wfFrom_filter d k t none h
  · next hv =>
    refine Tbl.wfFrom_ins d k v hv _ none (Tbl.wfFrom_filter d k t none h) (fun e he => ?_) (fun l hl => by cases hl)
    simpa using (List.mem_filter.mp he).2

/-! ### Memories -/

theorem Memory.byte_setByte (m : Memory) (a x : Nat) (b : Byte) :
    (m.setByte a b).byte x = if x = a then b else m.byte x := Tbl.get_put _ _ _ _ _

theorem Memory.wf_setByte {m : Memory} (a : Nat) (b : Byte) (h : m.wf = true) : (m.setByte a b).wf = true :=
  Tbl.wf_put _ _ _ _ h

/-- A write of n bytes keeps the canonical form. -/
theorem Memory.wf_write (a n v : Nat) : ∀ {m : Memory}, m.wf = true → (m.write a n v).wf = true := by
  induction n generalizing a v with
  | zero => intro m h; exact h
  | succ n ih => intro m h; exact ih _ _ (Memory.wf_setByte a _ h)

/-- A byte after a write of n bytes: the value's, or as before. -/
theorem Memory.byte_write (m : Memory) (a n v x : Nat) :
    (m.write a n v).byte x = if a ≤ x ∧ x < a + n then BitVec.ofNat 8 (v / 256 ^ (x - a)) else m.byte x := by
  induction n generalizing m a v with
  | zero =>
    rw [if_neg (by omega)]; rfl
  | succ n ih =>
    simp only [Memory.write]
    rw [ih, Memory.byte_setByte]
    by_cases h1 : x = a
    · subst h1
      have h2 : ¬ (x + 1 ≤ x ∧ x < x + 1 + n) := by omega
      have h3 : x ≤ x ∧ x < x + (n + 1) := by omega
      simp [h2]
    · by_cases h2 : a + 1 ≤ x ∧ x < a + 1 + n
      · have h3 : a ≤ x ∧ x < a + (n + 1) := by omega
        rw [if_pos h2, if_pos h3, Nat.div_div_eq_div_mul]
        congr 2
        rw [show x - a = (x - (a + 1)) + 1 by omega, Nat.pow_succ, Nat.mul_comm]
      · have h3 : ¬ (a ≤ x ∧ x < a + (n + 1)) := by omega
        rw [if_neg h2, if_neg h3, if_neg h1]

/-- A byte no write reaches reads as before. -/
theorem Memory.byte_write_other (m : Memory) {a n v x : Nat} (h : x < a ∨ a + n ≤ x) :
    (m.write a n v).byte x = m.byte x := by
  rw [Memory.byte_write, if_neg (by omega)]

/-- Reads of the same bytes are equal. -/
theorem Memory.read_congr {m m' : Memory} : ∀ (n a : Nat), (∀ x, a ≤ x → x < a + n → m.byte x = m'.byte x) →
    m.read a n = m'.read a n
  | 0, _, _ => rfl
  | n + 1, a, h => by
    simp only [Memory.read]
    rw [h a (by omega) (by omega), Memory.read_congr n (a + 1) (fun x h1 h2 => h x (by omega) (by omega))]

theorem Memory.read_write_other (m : Memory) {a n v b k : Nat} (h : b + k ≤ a ∨ a + n ≤ b) :
    (m.write a n v).read b k = m.read b k :=
  Memory.read_congr k b fun _ h1 h2 => Memory.byte_write_other m (by omega)

end Sys2Proof.Machine
end

