-- ==== Sys2Proof/Laws/Canonical.lean ====
section
/-! SUPPORT. The operations of the part that write device memory keep its canonical form. -/

namespace Sys2Proof.Machine

/-- Leaving entries out of a table keeps its form. -/
theorem Tbl.wfFrom_filterAny {α : Type} [DecidableEq α] (d : α) (p : Nat × α → Bool) (t : Tbl α) :
    ∀ lo, Tbl.wfFrom d lo t = true → Tbl.wfFrom d lo (t.filter p) = true := by
  induction t with
  | nil => intro lo h; simpa using h
  | cons e r ih =>
    obtain ⟨i, w⟩ := e
    intro lo h
    have hr := h
    simp only [Tbl.wfFrom, Bool.and_eq_true] at hr
    by_cases hi : p (i, w) = true
    · simp only [List.filter_cons, hi, if_true, Tbl.wfFrom, Bool.and_eq_true]
      exact ⟨hr.1, ih _ hr.2⟩
    · simp only [List.filter_cons, hi]
      refine Tbl.wfFrom_weaken d (ih (some i) hr.2) (fun l hl => ⟨i, rfl, ?_⟩)
      subst hl
      have := hr.1.1
      simp only [decide_eq_true_eq] at this
      omega

theorem Memory.wf_clear {m : Memory} (a n : Nat) (h : m.wf = true) : (m.clear a n).wf = true :=
  Tbl.wfFrom_filterAny _ _ _ _ h

theorem Memory.wf_copyDirty (e : L1Line) (n : Nat) : ∀ (o : Nat) {m : Memory}, m.wf = true →
    (copyDirty m e n o).wf = true := by
  induction n with
  | zero => intro o m h; exact h
  | succ n ih =>
    intro o m h
    refine ih (o + 1) ?_
    split
    · exact Memory.wf_setByte _ _ h
    · exact h

theorem State.postEvent_wf (s : State) (x : CtxId) (code src pay : Nat) (h : s.mem.wf = true) :
    (s.postEvent x code src pay).mem.wf = true := by
  simp only [State.postEvent]
  split
  · exact Memory.wf_write _ _ _ h
  · exact h

@[simp] theorem State.wakeFor_mem (s : State) (line : Nat) : (s.wakeFor line).mem = s.mem := by
  simp only [State.wakeFor]
  split <;> rfl

@[simp] theorem State.setSline_mem (s : State) (line : Nat) (l : Option SLine) : (s.setSline line l).mem = s.mem := rfl

@[simp] theorem State.bumpVersion_mem (s : State) (line : Nat) (x : Option CtxId) :
    (s.bumpVersion line x).mem = s.mem := by
  simp only [State.bumpVersion]
  split <;> simp

@[simp] theorem State.storeBlock_mem (s : State) (k : Nat) (b : Bool) : (s.storeBlock k b).mem = s.mem := by
  simp only [State.storeBlock]
  split <;> rfl

@[simp] theorem State.countLink_mem (s : State) (x : Option CtxId) (n : Nat) : (s.countLink x n).mem = s.mem := by
  cases x <;> rfl

@[simp] theorem State.countGddr_mem (s : State) (x : Option CtxId) (n : Nat) : (s.countGddr x n).mem = s.mem := by
  cases x <;> rfl

@[simp] theorem State.countBlock_mem (s : State) (k : Nat) (x : Option CtxId) : (s.countBlock k x).mem = s.mem := by
  simp [State.countBlock]

/-- Bytes sent to a controller are coded and counted; memory holds them already. -/
@[simp] theorem State.sendBytes_mem (s : State) (k m : Nat) (x : Option CtxId) : (s.sendBytes k m x).mem = s.mem := by
  simp only [State.sendBytes, State.sendBlock]
  repeat' split
  all_goals simp

/-- A fold of updates that leave memory as it is leaves it as it is. -/
theorem State.foldl_mem {α : Type} (f : State → α → State) (hf : ∀ s a, (f s a).mem = s.mem) (l : List α) :
    ∀ s : State, (l.foldl f s).mem = s.mem := by
  induction l with
  | nil => intro s; rfl
  | cons i r ih => intro s; rw [List.foldl_cons, ih, hf]

/-- What follows a write of the die leaves memory as the write has left it. -/
@[simp] theorem State.written_mem (s : State) (a n : Nat) : (s.written a n).mem = s.mem := by
  have hc : ((s.forgetSyncs a n none).codeBlocks a n).mem = s.mem := by
    simp only [State.codeBlocks]
    rw [State.foldl_mem _ (fun s i => by simp)]
    rfl
  simp only [State.written]
  rw [State.foldl_mem _ (fun s i => by simp), hc]

/-- What a write of the die itself leaves in memory. -/
theorem State.writeDie_mem (s : State) (a n v : Nat) : (s.writeDie a n v).mem = s.mem.write a n v := by
  simp [State.writeDie]

theorem State.writeDie_wf (s : State) (a n v : Nat) (h : s.mem.wf = true) : (s.writeDie a n v).mem.wf = true := by
  rw [State.writeDie_mem]
  exact Memory.wf_write _ _ _ h

end Sys2Proof.Machine
end

