-- ==== Sys2Proof/Laws/State.lean ====
section
/-! SUPPORT. What each named update of the state leaves as it was, field by field. -/

namespace Sys2Proof.Machine

@[simp] theorem State.setCore_now (s : State) (c : CoreId) (k : Core) : (s.setCore c k).now = s.now := rfl
@[simp] theorem State.setCore_clusters (s : State) (c : CoreId) (k : Core) : (s.setCore c k).clusters = s.clusters := rfl
@[simp] theorem State.setCore_ctxs (s : State) (c : CoreId) (k : Core) : (s.setCore c k).ctxs = s.ctxs := rfl
@[simp] theorem State.setCore_mem (s : State) (c : CoreId) (k : Core) : (s.setCore c k).mem = s.mem := rfl
@[simp] theorem State.setCore_poison (s : State) (c : CoreId) (k : Core) : (s.setCore c k).poison = s.poison := rfl
@[simp] theorem State.setCore_sward (s : State) (c : CoreId) (k : Core) : (s.setCore c k).sward = s.sward := rfl
@[simp] theorem State.setCore_swardB (s : State) (c : CoreId) (k : Core) : (s.setCore c k).swardB = s.swardB := rfl
@[simp] theorem State.setCore_slines (s : State) (c : CoreId) (k : Core) : (s.setCore c k).slines = s.slines := rfl
@[simp] theorem State.setCore_setCtr (s : State) (c : CoreId) (k : Core) : (s.setCore c k).setCtr = s.setCtr := rfl
@[simp] theorem State.setCore_granules (s : State) (c : CoreId) (k : Core) : (s.setCore c k).granules = s.granules := rfl
@[simp] theorem State.setCore_syncs (s : State) (c : CoreId) (k : Core) : (s.setCore c k).syncs = s.syncs := rfl
@[simp] theorem State.setCore_reqs (s : State) (c : CoreId) (k : Core) : (s.setCore c k).reqs = s.reqs := rfl
@[simp] theorem State.setCore_joins (s : State) (c : CoreId) (k : Core) : (s.setCore c k).joins = s.joins := rfl
@[simp] theorem State.setCore_launches (s : State) (c : CoreId) (k : Core) : (s.setCore c k).launches = s.launches := rfl
@[simp] theorem State.setCore_streams (s : State) (c : CoreId) (k : Core) : (s.setCore c k).streams = s.streams := rfl
@[simp] theorem State.setCore_trees (s : State) (c : CoreId) (k : Core) : (s.setCore c k).trees = s.trees := rfl
@[simp] theorem State.setCore_kvCount (s : State) (c : CoreId) (k : Core) : (s.setCore c k).kvCount = s.kvCount := rfl
@[simp] theorem State.setCore_kvOwner (s : State) (c : CoreId) (k : Core) : (s.setCore c k).kvOwner = s.kvOwner := rfl
@[simp] theorem State.setCore_encs (s : State) (c : CoreId) (k : Core) : (s.setCore c k).encs = s.encs := rfl
@[simp] theorem State.setCore_decs (s : State) (c : CoreId) (k : Core) : (s.setCore c k).decs = s.decs := rfl
@[simp] theorem State.setCore_die (s : State) (c : CoreId) (k : Core) : (s.setCore c k).die = s.die := rfl
@[simp] theorem State.setCore_hostVc (s : State) (c : CoreId) (k : Core) : (s.setCore c k).hostVc = s.hostVc := rfl
@[simp] theorem State.setCore_cur (s : State) (c : CoreId) (k : Core) : (s.setCore c k).cur = s.cur := rfl
@[simp] theorem State.setCore_events (s : State) (c : CoreId) (k : Core) : (s.setCore c k).events = s.events := rfl
@[simp] theorem State.setCore_stimuli (s : State) (c : CoreId) (k : Core) : (s.setCore c k).stimuli = s.stimuli := rfl
@[simp] theorem State.setCore_delays (s : State) (c : CoreId) (k : Core) : (s.setCore c k).delays = s.delays := rfl
@[simp] theorem State.setCore_nextId (s : State) (c : CoreId) (k : Core) : (s.setCore c k).nextId = s.nextId := rfl
@[simp] theorem State.setCore_free (s : State) (c : CoreId) (k : Core) : (s.setCore c k).free = s.free := rfl

@[simp] theorem State.onCore_now (s : State) (c : CoreId) (f : Core → Core) : (s.onCore c f).now = s.now := rfl
@[simp] theorem State.onCore_clusters (s : State) (c : CoreId) (f : Core → Core) : (s.onCore c f).clusters = s.clusters := rfl
@[simp] theorem State.onCore_ctxs (s : State) (c : CoreId) (f : Core → Core) : (s.onCore c f).ctxs = s.ctxs := rfl
@[simp] theorem State.onCore_mem (s : State) (c : CoreId) (f : Core → Core) : (s.onCore c f).mem = s.mem := rfl
@[simp] theorem State.onCore_poison (s : State) (c : CoreId) (f : Core → Core) : (s.onCore c f).poison = s.poison := rfl
@[simp] theorem State.onCore_sward (s : State) (c : CoreId) (f : Core → Core) : (s.onCore c f).sward = s.sward := rfl
@[simp] theorem State.onCore_swardB (s : State) (c : CoreId) (f : Core → Core) : (s.onCore c f).swardB = s.swardB := rfl
@[simp] theorem State.onCore_slines (s : State) (c : CoreId) (f : Core → Core) : (s.onCore c f).slines = s.slines := rfl
@[simp] theorem State.onCore_setCtr (s : State) (c : CoreId) (f : Core → Core) : (s.onCore c f).setCtr = s.setCtr := rfl
@[simp] theorem State.onCore_granules (s : State) (c : CoreId) (f : Core → Core) : (s.onCore c f).granules = s.granules := rfl
@[simp] theorem State.onCore_syncs (s : State) (c : CoreId) (f : Core → Core) : (s.onCore c f).syncs = s.syncs := rfl
@[simp] theorem State.onCore_reqs (s : State) (c : CoreId) (f : Core → Core) : (s.onCore c f).reqs = s.reqs := rfl
@[simp] theorem State.onCore_joins (s : State) (c : CoreId) (f : Core → Core) : (s.onCore c f).joins = s.joins := rfl
@[simp] theorem State.onCore_launches (s : State) (c : CoreId) (f : Core → Core) : (s.onCore c f).launches = s.launches := rfl
@[simp] theorem State.onCore_streams (s : State) (c : CoreId) (f : Core → Core) : (s.onCore c f).streams = s.streams := rfl
@[simp] theorem State.onCore_trees (s : State) (c : CoreId) (f : Core → Core) : (s.onCore c f).trees = s.trees := rfl
@[simp] theorem State.onCore_kvCount (s : State) (c : CoreId) (f : Core → Core) : (s.onCore c f).kvCount = s.kvCount := rfl
@[simp] theorem State.onCore_kvOwner (s : State) (c : CoreId) (f : Core → Core) : (s.onCore c f).kvOwner = s.kvOwner := rfl
@[simp] theorem State.onCore_encs (s : State) (c : CoreId) (f : Core → Core) : (s.onCore c f).encs = s.encs := rfl
@[simp] theorem State.onCore_decs (s : State) (c : CoreId) (f : Core → Core) : (s.onCore c f).decs = s.decs := rfl
@[simp] theorem State.onCore_die (s : State) (c : CoreId) (f : Core → Core) : (s.onCore c f).die = s.die := rfl
@[simp] theorem State.onCore_hostVc (s : State) (c : CoreId) (f : Core → Core) : (s.onCore c f).hostVc = s.hostVc := rfl
@[simp] theorem State.onCore_cur (s : State) (c : CoreId) (f : Core → Core) : (s.onCore c f).cur = s.cur := rfl
@[simp] theorem State.onCore_events (s : State) (c : CoreId) (f : Core → Core) : (s.onCore c f).events = s.events := rfl
@[simp] theorem State.onCore_stimuli (s : State) (c : CoreId) (f : Core → Core) : (s.onCore c f).stimuli = s.stimuli := rfl
@[simp] theorem State.onCore_delays (s : State) (c : CoreId) (f : Core → Core) : (s.onCore c f).delays = s.delays := rfl
@[simp] theorem State.onCore_nextId (s : State) (c : CoreId) (f : Core → Core) : (s.onCore c f).nextId = s.nextId := rfl
@[simp] theorem State.onCore_free (s : State) (c : CoreId) (f : Core → Core) : (s.onCore c f).free = s.free := rfl

@[simp] theorem State.onMe_now (s : State) (f : Core → Core) : (s.onMe f).now = s.now := rfl
@[simp] theorem State.onMe_clusters (s : State) (f : Core → Core) : (s.onMe f).clusters = s.clusters := rfl
@[simp] theorem State.onMe_ctxs (s : State) (f : Core → Core) : (s.onMe f).ctxs = s.ctxs := rfl
@[simp] theorem State.onMe_mem (s : State) (f : Core → Core) : (s.onMe f).mem = s.mem := rfl
@[simp] theorem State.onMe_poison (s : State) (f : Core → Core) : (s.onMe f).poison = s.poison := rfl
@[simp] theorem State.onMe_sward (s : State) (f : Core → Core) : (s.onMe f).sward = s.sward := rfl
@[simp] theorem State.onMe_swardB (s : State) (f : Core → Core) : (s.onMe f).swardB = s.swardB := rfl
@[simp] theorem State.onMe_slines (s : State) (f : Core → Core) : (s.onMe f).slines = s.slines := rfl
@[simp] theorem State.onMe_setCtr (s : State) (f : Core → Core) : (s.onMe f).setCtr = s.setCtr := rfl
@[simp] theorem State.onMe_granules (s : State) (f : Core → Core) : (s.onMe f).granules = s.granules := rfl
@[simp] theorem State.onMe_syncs (s : State) (f : Core → Core) : (s.onMe f).syncs = s.syncs := rfl
@[simp] theorem State.onMe_reqs (s : State) (f : Core → Core) : (s.onMe f).reqs = s.reqs := rfl
@[simp] theorem State.onMe_joins (s : State) (f : Core → Core) : (s.onMe f).joins = s.joins := rfl
@[simp] theorem State.onMe_launches (s : State) (f : Core → Core) : (s.onMe f).launches = s.launches := rfl
@[simp] theorem State.onMe_streams (s : State) (f : Core → Core) : (s.onMe f).streams = s.streams := rfl
@[simp] theorem State.onMe_trees (s : State) (f : Core → Core) : (s.onMe f).trees = s.trees := rfl
@[simp] theorem State.onMe_kvCount (s : State) (f : Core → Core) : (s.onMe f).kvCount = s.kvCount := rfl
@[simp] theorem State.onMe_kvOwner (s : State) (f : Core → Core) : (s.onMe f).kvOwner = s.kvOwner := rfl
@[simp] theorem State.onMe_encs (s : State) (f : Core → Core) : (s.onMe f).encs = s.encs := rfl
@[simp] theorem State.onMe_decs (s : State) (f : Core → Core) : (s.onMe f).decs = s.decs := rfl
@[simp] theorem State.onMe_die (s : State) (f : Core → Core) : (s.onMe f).die = s.die := rfl
@[simp] theorem State.onMe_hostVc (s : State) (f : Core → Core) : (s.onMe f).hostVc = s.hostVc := rfl
@[simp] theorem State.onMe_cur (s : State) (f : Core → Core) : (s.onMe f).cur = s.cur := rfl
@[simp] theorem State.onMe_events (s : State) (f : Core → Core) : (s.onMe f).events = s.events := rfl
@[simp] theorem State.onMe_stimuli (s : State) (f : Core → Core) : (s.onMe f).stimuli = s.stimuli := rfl
@[simp] theorem State.onMe_delays (s : State) (f : Core → Core) : (s.onMe f).delays = s.delays := rfl
@[simp] theorem State.onMe_nextId (s : State) (f : Core → Core) : (s.onMe f).nextId = s.nextId := rfl
@[simp] theorem State.onMe_free (s : State) (f : Core → Core) : (s.onMe f).free = s.free := rfl

@[simp] theorem State.onCluster_now (s : State) (k : ClusterId) (f : Cluster → Cluster) : (s.onCluster k f).now = s.now := rfl
@[simp] theorem State.onCluster_cores (s : State) (k : ClusterId) (f : Cluster → Cluster) : (s.onCluster k f).cores = s.cores := rfl
@[simp] theorem State.onCluster_ctxs (s : State) (k : ClusterId) (f : Cluster → Cluster) : (s.onCluster k f).ctxs = s.ctxs := rfl
@[simp] theorem State.onCluster_mem (s : State) (k : ClusterId) (f : Cluster → Cluster) : (s.onCluster k f).mem = s.mem := rfl
@[simp] theorem State.onCluster_poison (s : State) (k : ClusterId) (f : Cluster → Cluster) : (s.onCluster k f).poison = s.poison := rfl
@[simp] theorem State.onCluster_sward (s : State) (k : ClusterId) (f : Cluster → Cluster) : (s.onCluster k f).sward = s.sward := rfl
@[simp] theorem State.onCluster_swardB (s : State) (k : ClusterId) (f : Cluster → Cluster) : (s.onCluster k f).swardB = s.swardB := rfl
@[simp] theorem State.onCluster_slines (s : State) (k : ClusterId) (f : Cluster → Cluster) : (s.onCluster k f).slines = s.slines := rfl
@[simp] theorem State.onCluster_setCtr (s : State) (k : ClusterId) (f : Cluster → Cluster) : (s.onCluster k f).setCtr = s.setCtr := rfl
@[simp] theorem State.onCluster_granules (s : State) (k : ClusterId) (f : Cluster → Cluster) : (s.onCluster k f).granules = s.granules := rfl
@[simp] theorem State.onCluster_syncs (s : State) (k : ClusterId) (f : Cluster → Cluster) : (s.onCluster k f).syncs = s.syncs := rfl
@[simp] theorem State.onCluster_reqs (s : State) (k : ClusterId) (f : Cluster → Cluster) : (s.onCluster k f).reqs = s.reqs := rfl
@[simp] theorem State.onCluster_joins (s : State) (k : ClusterId) (f : Cluster → Cluster) : (s.onCluster k f).joins = s.joins := rfl
@[simp] theorem State.onCluster_launches (s : State) (k : ClusterId) (f : Cluster → Cluster) : (s.onCluster k f).launches = s.launches := rfl
@[simp] theorem State.onCluster_streams (s : State) (k : ClusterId) (f : Cluster → Cluster) : (s.onCluster k f).streams = s.streams := rfl
@[simp] theorem State.onCluster_trees (s : State) (k : ClusterId) (f : Cluster → Cluster) : (s.onCluster k f).trees = s.trees := rfl
@[simp] theorem State.onCluster_kvCount (s : State) (k : ClusterId) (f : Cluster → Cluster) : (s.onCluster k f).kvCount = s.kvCount := rfl
@[simp] theorem State.onCluster_kvOwner (s : State) (k : ClusterId) (f : Cluster → Cluster) : (s.onCluster k f).kvOwner = s.kvOwner := rfl
@[simp] theorem State.onCluster_encs (s : State) (k : ClusterId) (f : Cluster → Cluster) : (s.onCluster k f).encs = s.encs := rfl
@[simp] theorem State.onCluster_decs (s : State) (k : ClusterId) (f : Cluster → Cluster) : (s.onCluster k f).decs = s.decs := rfl
@[simp] theorem State.onCluster_die (s : State) (k : ClusterId) (f : Cluster → Cluster) : (s.onCluster k f).die = s.die := rfl
@[simp] theorem State.onCluster_hostVc (s : State) (k : ClusterId) (f : Cluster → Cluster) : (s.onCluster k f).hostVc = s.hostVc := rfl
@[simp] theorem State.onCluster_cur (s : State) (k : ClusterId) (f : Cluster → Cluster) : (s.onCluster k f).cur = s.cur := rfl
@[simp] theorem State.onCluster_events (s : State) (k : ClusterId) (f : Cluster → Cluster) : (s.onCluster k f).events = s.events := rfl
@[simp] theorem State.onCluster_stimuli (s : State) (k : ClusterId) (f : Cluster → Cluster) : (s.onCluster k f).stimuli = s.stimuli := rfl
@[simp] theorem State.onCluster_delays (s : State) (k : ClusterId) (f : Cluster → Cluster) : (s.onCluster k f).delays = s.delays := rfl
@[simp] theorem State.onCluster_nextId (s : State) (k : ClusterId) (f : Cluster → Cluster) : (s.onCluster k f).nextId = s.nextId := rfl
@[simp] theorem State.onCluster_free (s : State) (k : ClusterId) (f : Cluster → Cluster) : (s.onCluster k f).free = s.free := rfl

@[simp] theorem State.onCtx_now (s : State) (x : CtxId) (f : Ctx → Ctx) : (s.onCtx x f).now = s.now := rfl
@[simp] theorem State.onCtx_cores (s : State) (x : CtxId) (f : Ctx → Ctx) : (s.onCtx x f).cores = s.cores := rfl
@[simp] theorem State.onCtx_clusters (s : State) (x : CtxId) (f : Ctx → Ctx) : (s.onCtx x f).clusters = s.clusters := rfl
@[simp] theorem State.onCtx_mem (s : State) (x : CtxId) (f : Ctx → Ctx) : (s.onCtx x f).mem = s.mem := rfl
@[simp] theorem State.onCtx_poison (s : State) (x : CtxId) (f : Ctx → Ctx) : (s.onCtx x f).poison = s.poison := rfl
@[simp] theorem State.onCtx_sward (s : State) (x : CtxId) (f : Ctx → Ctx) : (s.onCtx x f).sward = s.sward := rfl
@[simp] theorem State.onCtx_swardB (s : State) (x : CtxId) (f : Ctx → Ctx) : (s.onCtx x f).swardB = s.swardB := rfl
@[simp] theorem State.onCtx_slines (s : State) (x : CtxId) (f : Ctx → Ctx) : (s.onCtx x f).slines = s.slines := rfl
@[simp] theorem State.onCtx_setCtr (s : State) (x : CtxId) (f : Ctx → Ctx) : (s.onCtx x f).setCtr = s.setCtr := rfl
@[simp] theorem State.onCtx_granules (s : State) (x : CtxId) (f : Ctx → Ctx) : (s.onCtx x f).granules = s.granules := rfl
@[simp] theorem State.onCtx_syncs (s : State) (x : CtxId) (f : Ctx → Ctx) : (s.onCtx x f).syncs = s.syncs := rfl
@[simp] theorem State.onCtx_reqs (s : State) (x : CtxId) (f : Ctx → Ctx) : (s.onCtx x f).reqs = s.reqs := rfl
@[simp] theorem State.onCtx_joins (s : State) (x : CtxId) (f : Ctx → Ctx) : (s.onCtx x f).joins = s.joins := rfl
@[simp] theorem State.onCtx_launches (s : State) (x : CtxId) (f : Ctx → Ctx) : (s.onCtx x f).launches = s.launches := rfl
@[simp] theorem State.onCtx_streams (s : State) (x : CtxId) (f : Ctx → Ctx) : (s.onCtx x f).streams = s.streams := rfl
@[simp] theorem State.onCtx_trees (s : State) (x : CtxId) (f : Ctx → Ctx) : (s.onCtx x f).trees = s.trees := rfl
@[simp] theorem State.onCtx_kvCount (s : State) (x : CtxId) (f : Ctx → Ctx) : (s.onCtx x f).kvCount = s.kvCount := rfl
@[simp] theorem State.onCtx_kvOwner (s : State) (x : CtxId) (f : Ctx → Ctx) : (s.onCtx x f).kvOwner = s.kvOwner := rfl
@[simp] theorem State.onCtx_encs (s : State) (x : CtxId) (f : Ctx → Ctx) : (s.onCtx x f).encs = s.encs := rfl
@[simp] theorem State.onCtx_decs (s : State) (x : CtxId) (f : Ctx → Ctx) : (s.onCtx x f).decs = s.decs := rfl
@[simp] theorem State.onCtx_die (s : State) (x : CtxId) (f : Ctx → Ctx) : (s.onCtx x f).die = s.die := rfl
@[simp] theorem State.onCtx_hostVc (s : State) (x : CtxId) (f : Ctx → Ctx) : (s.onCtx x f).hostVc = s.hostVc := rfl
@[simp] theorem State.onCtx_cur (s : State) (x : CtxId) (f : Ctx → Ctx) : (s.onCtx x f).cur = s.cur := rfl
@[simp] theorem State.onCtx_events (s : State) (x : CtxId) (f : Ctx → Ctx) : (s.onCtx x f).events = s.events := rfl
@[simp] theorem State.onCtx_stimuli (s : State) (x : CtxId) (f : Ctx → Ctx) : (s.onCtx x f).stimuli = s.stimuli := rfl
@[simp] theorem State.onCtx_delays (s : State) (x : CtxId) (f : Ctx → Ctx) : (s.onCtx x f).delays = s.delays := rfl
@[simp] theorem State.onCtx_nextId (s : State) (x : CtxId) (f : Ctx → Ctx) : (s.onCtx x f).nextId = s.nextId := rfl
@[simp] theorem State.onCtx_free (s : State) (x : CtxId) (f : Ctx → Ctx) : (s.onCtx x f).free = s.free := rfl

@[simp] theorem State.schedule_now (s : State) (t : Nat) (i : Instr) : (s.schedule t i).now = s.now := rfl
@[simp] theorem State.schedule_cores (s : State) (t : Nat) (i : Instr) : (s.schedule t i).cores = s.cores := rfl
@[simp] theorem State.schedule_clusters (s : State) (t : Nat) (i : Instr) : (s.schedule t i).clusters = s.clusters := rfl
@[simp] theorem State.schedule_ctxs (s : State) (t : Nat) (i : Instr) : (s.schedule t i).ctxs = s.ctxs := rfl
@[simp] theorem State.schedule_mem (s : State) (t : Nat) (i : Instr) : (s.schedule t i).mem = s.mem := rfl
@[simp] theorem State.schedule_poison (s : State) (t : Nat) (i : Instr) : (s.schedule t i).poison = s.poison := rfl
@[simp] theorem State.schedule_sward (s : State) (t : Nat) (i : Instr) : (s.schedule t i).sward = s.sward := rfl
@[simp] theorem State.schedule_swardB (s : State) (t : Nat) (i : Instr) : (s.schedule t i).swardB = s.swardB := rfl
@[simp] theorem State.schedule_slines (s : State) (t : Nat) (i : Instr) : (s.schedule t i).slines = s.slines := rfl
@[simp] theorem State.schedule_setCtr (s : State) (t : Nat) (i : Instr) : (s.schedule t i).setCtr = s.setCtr := rfl
@[simp] theorem State.schedule_granules (s : State) (t : Nat) (i : Instr) : (s.schedule t i).granules = s.granules := rfl
@[simp] theorem State.schedule_syncs (s : State) (t : Nat) (i : Instr) : (s.schedule t i).syncs = s.syncs := rfl
@[simp] theorem State.schedule_reqs (s : State) (t : Nat) (i : Instr) : (s.schedule t i).reqs = s.reqs := rfl
@[simp] theorem State.schedule_joins (s : State) (t : Nat) (i : Instr) : (s.schedule t i).joins = s.joins := rfl
@[simp] theorem State.schedule_launches (s : State) (t : Nat) (i : Instr) : (s.schedule t i).launches = s.launches := rfl
@[simp] theorem State.schedule_streams (s : State) (t : Nat) (i : Instr) : (s.schedule t i).streams = s.streams := rfl
@[simp] theorem State.schedule_trees (s : State) (t : Nat) (i : Instr) : (s.schedule t i).trees = s.trees := rfl
@[simp] theorem State.schedule_kvCount (s : State) (t : Nat) (i : Instr) : (s.schedule t i).kvCount = s.kvCount := rfl
@[simp] theorem State.schedule_kvOwner (s : State) (t : Nat) (i : Instr) : (s.schedule t i).kvOwner = s.kvOwner := rfl
@[simp] theorem State.schedule_encs (s : State) (t : Nat) (i : Instr) : (s.schedule t i).encs = s.encs := rfl
@[simp] theorem State.schedule_decs (s : State) (t : Nat) (i : Instr) : (s.schedule t i).decs = s.decs := rfl
@[simp] theorem State.schedule_die (s : State) (t : Nat) (i : Instr) : (s.schedule t i).die = s.die := rfl
@[simp] theorem State.schedule_hostVc (s : State) (t : Nat) (i : Instr) : (s.schedule t i).hostVc = s.hostVc := rfl
@[simp] theorem State.schedule_cur (s : State) (t : Nat) (i : Instr) : (s.schedule t i).cur = s.cur := rfl
@[simp] theorem State.schedule_stimuli (s : State) (t : Nat) (i : Instr) : (s.schedule t i).stimuli = s.stimuli := rfl
@[simp] theorem State.schedule_delays (s : State) (t : Nat) (i : Instr) : (s.schedule t i).delays = s.delays := rfl
@[simp] theorem State.schedule_nextId (s : State) (t : Nat) (i : Instr) : (s.schedule t i).nextId = s.nextId := rfl
@[simp] theorem State.schedule_free (s : State) (t : Nat) (i : Instr) : (s.schedule t i).free = s.free := rfl

@[simp] theorem State.takeIdState_now (s : State) : (s.takeId.2).now = s.now := rfl
@[simp] theorem State.takeIdState_cores (s : State) : (s.takeId.2).cores = s.cores := rfl
@[simp] theorem State.takeIdState_clusters (s : State) : (s.takeId.2).clusters = s.clusters := rfl
@[simp] theorem State.takeIdState_ctxs (s : State) : (s.takeId.2).ctxs = s.ctxs := rfl
@[simp] theorem State.takeIdState_mem (s : State) : (s.takeId.2).mem = s.mem := rfl
@[simp] theorem State.takeIdState_poison (s : State) : (s.takeId.2).poison = s.poison := rfl
@[simp] theorem State.takeIdState_sward (s : State) : (s.takeId.2).sward = s.sward := rfl
@[simp] theorem State.takeIdState_swardB (s : State) : (s.takeId.2).swardB = s.swardB := rfl
@[simp] theorem State.takeIdState_slines (s : State) : (s.takeId.2).slines = s.slines := rfl
@[simp] theorem State.takeIdState_setCtr (s : State) : (s.takeId.2).setCtr = s.setCtr := rfl
@[simp] theorem State.takeIdState_granules (s : State) : (s.takeId.2).granules = s.granules := rfl
@[simp] theorem State.takeIdState_syncs (s : State) : (s.takeId.2).syncs = s.syncs := rfl
@[simp] theorem State.takeIdState_reqs (s : State) : (s.takeId.2).reqs = s.reqs := rfl
@[simp] theorem State.takeIdState_joins (s : State) : (s.takeId.2).joins = s.joins := rfl
@[simp] theorem State.takeIdState_launches (s : State) : (s.takeId.2).launches = s.launches := rfl
@[simp] theorem State.takeIdState_streams (s : State) : (s.takeId.2).streams = s.streams := rfl
@[simp] theorem State.takeIdState_trees (s : State) : (s.takeId.2).trees = s.trees := rfl
@[simp] theorem State.takeIdState_kvCount (s : State) : (s.takeId.2).kvCount = s.kvCount := rfl
@[simp] theorem State.takeIdState_kvOwner (s : State) : (s.takeId.2).kvOwner = s.kvOwner := rfl
@[simp] theorem State.takeIdState_encs (s : State) : (s.takeId.2).encs = s.encs := rfl
@[simp] theorem State.takeIdState_decs (s : State) : (s.takeId.2).decs = s.decs := rfl
@[simp] theorem State.takeIdState_die (s : State) : (s.takeId.2).die = s.die := rfl
@[simp] theorem State.takeIdState_hostVc (s : State) : (s.takeId.2).hostVc = s.hostVc := rfl
@[simp] theorem State.takeIdState_cur (s : State) : (s.takeId.2).cur = s.cur := rfl
@[simp] theorem State.takeIdState_events (s : State) : (s.takeId.2).events = s.events := rfl
@[simp] theorem State.takeIdState_stimuli (s : State) : (s.takeId.2).stimuli = s.stimuli := rfl
@[simp] theorem State.takeIdState_delays (s : State) : (s.takeId.2).delays = s.delays := rfl
@[simp] theorem State.takeIdState_free (s : State) : (s.takeId.2).free = s.free := rfl

@[simp] theorem State.takeFreeState_now (s : State) : (s.takeFree.2).now = s.now := rfl
@[simp] theorem State.takeFreeState_cores (s : State) : (s.takeFree.2).cores = s.cores := rfl
@[simp] theorem State.takeFreeState_clusters (s : State) : (s.takeFree.2).clusters = s.clusters := rfl
@[simp] theorem State.takeFreeState_ctxs (s : State) : (s.takeFree.2).ctxs = s.ctxs := rfl
@[simp] theorem State.takeFreeState_mem (s : State) : (s.takeFree.2).mem = s.mem := rfl
@[simp] theorem State.takeFreeState_poison (s : State) : (s.takeFree.2).poison = s.poison := rfl
@[simp] theorem State.takeFreeState_sward (s : State) : (s.takeFree.2).sward = s.sward := rfl
@[simp] theorem State.takeFreeState_swardB (s : State) : (s.takeFree.2).swardB = s.swardB := rfl
@[simp] theorem State.takeFreeState_slines (s : State) : (s.takeFree.2).slines = s.slines := rfl
@[simp] theorem State.takeFreeState_setCtr (s : State) : (s.takeFree.2).setCtr = s.setCtr := rfl
@[simp] theorem State.takeFreeState_granules (s : State) : (s.takeFree.2).granules = s.granules := rfl
@[simp] theorem State.takeFreeState_syncs (s : State) : (s.takeFree.2).syncs = s.syncs := rfl
@[simp] theorem State.takeFreeState_reqs (s : State) : (s.takeFree.2).reqs = s.reqs := rfl
@[simp] theorem State.takeFreeState_joins (s : State) : (s.takeFree.2).joins = s.joins := rfl
@[simp] theorem State.takeFreeState_launches (s : State) : (s.takeFree.2).launches = s.launches := rfl
@[simp] theorem State.takeFreeState_streams (s : State) : (s.takeFree.2).streams = s.streams := rfl
@[simp] theorem State.takeFreeState_trees (s : State) : (s.takeFree.2).trees = s.trees := rfl
@[simp] theorem State.takeFreeState_kvCount (s : State) : (s.takeFree.2).kvCount = s.kvCount := rfl
@[simp] theorem State.takeFreeState_kvOwner (s : State) : (s.takeFree.2).kvOwner = s.kvOwner := rfl
@[simp] theorem State.takeFreeState_encs (s : State) : (s.takeFree.2).encs = s.encs := rfl
@[simp] theorem State.takeFreeState_decs (s : State) : (s.takeFree.2).decs = s.decs := rfl
@[simp] theorem State.takeFreeState_die (s : State) : (s.takeFree.2).die = s.die := rfl
@[simp] theorem State.takeFreeState_hostVc (s : State) : (s.takeFree.2).hostVc = s.hostVc := rfl
@[simp] theorem State.takeFreeState_cur (s : State) : (s.takeFree.2).cur = s.cur := rfl
@[simp] theorem State.takeFreeState_events (s : State) : (s.takeFree.2).events = s.events := rfl
@[simp] theorem State.takeFreeState_stimuli (s : State) : (s.takeFree.2).stimuli = s.stimuli := rfl
@[simp] theorem State.takeFreeState_delays (s : State) : (s.takeFree.2).delays = s.delays := rfl
@[simp] theorem State.takeFreeState_nextId (s : State) : (s.takeFree.2).nextId = s.nextId := rfl

end Sys2Proof.Machine
end

