-- ==== Sys2Proof/Laws/Parts.lean ====
section
/-! SUPPORT. Reading a part of the state after it, or another, was written. -/

namespace Sys2Proof.Machine

/-! ### Cores -/

@[simp] theorem State.core_setCore (s : State) (c : CoreId) (k : Core) : (s.setCore c k).core c = k := by
  simp [State.core, State.setCore]

theorem State.core_setCore_ne (s : State) {c d : CoreId} (k : Core) (h : c ≠ d) :
    (s.setCore c k).core d = s.core d := by
  simp only [State.core, State.setCore]
  exact Vector.getElem_set_ne _ _ (fun e => h (BitVec.eq_of_toNat_eq e))

@[simp] theorem State.core_onCore (s : State) (c : CoreId) (f : Core → Core) :
    (s.onCore c f).core c = f (s.core c) := by simp [State.onCore]

theorem State.core_onCore_ne (s : State) {c d : CoreId} (f : Core → Core) (h : c ≠ d) :
    (s.onCore c f).core d = s.core d := by simp [State.onCore, State.core_setCore_ne _ _ h]

@[simp] theorem State.me_onMe (s : State) (f : Core → Core) : (s.onMe f).me = f s.me := by
  simp [State.me, State.onMe]

theorem State.core_onMe_ne (s : State) {d : CoreId} (f : Core → Core) (h : s.cur ≠ d) :
    (s.onMe f).core d = s.core d := by simp [State.onMe, State.core_onCore_ne _ _ h]

@[simp] theorem State.setCore_core (s : State) (c : CoreId) : s.setCore c (s.core c) = s := by
  simp [State.setCore, State.core]

@[simp] theorem State.onMe_id (s : State) : s.onMe (fun k => k) = s := by
  simp [State.onMe, State.onCore]

/-- An update that leaves the executing core as it is leaves the state as it is. -/
theorem State.onMe_same (s : State) {f : Core → Core} (h : f s.me = s.me) : s.onMe f = s := by
  simp only [State.onMe, State.onCore]
  rw [show f (s.core s.cur) = s.core s.cur from h]; simp

@[simp] theorem State.core_schedule (s : State) (t : Nat) (i : Instr) (c : CoreId) :
    (s.schedule t i).core c = s.core c := rfl
@[simp] theorem State.me_schedule (s : State) (t : Nat) (i : Instr) : (s.schedule t i).me = s.me := rfl
@[simp] theorem State.core_onCluster (s : State) (k : ClusterId) (f : Cluster → Cluster) (c : CoreId) :
    (s.onCluster k f).core c = s.core c := rfl
@[simp] theorem State.core_onCtx (s : State) (x : CtxId) (f : Ctx → Ctx) (c : CoreId) :
    (s.onCtx x f).core c = s.core c := rfl
@[simp] theorem State.me_onCtx (s : State) (x : CtxId) (f : Ctx → Ctx) : (s.onCtx x f).me = s.me := rfl
@[simp] theorem State.me_takeId (s : State) : s.takeId.2.me = s.me := rfl
@[simp] theorem State.me_takeFree (s : State) : s.takeFree.2.me = s.me := rfl

/-! ### Clusters and contexts -/

@[simp] theorem State.cluster_onCluster (s : State) (k : ClusterId) (f : Cluster → Cluster) :
    (s.onCluster k f).cluster k = f (s.cluster k) := by simp [State.cluster, State.onCluster]

theorem State.cluster_onCluster_ne (s : State) {k l : ClusterId} (f : Cluster → Cluster) (h : k ≠ l) :
    (s.onCluster k f).cluster l = s.cluster l := by
  simp only [State.cluster, State.onCluster]
  exact Vector.getElem_set_ne _ _ (fun e => h (BitVec.eq_of_toNat_eq e))

@[simp] theorem State.cluster_setCore (s : State) (c : CoreId) (k : Core) (l : ClusterId) :
    (s.setCore c k).cluster l = s.cluster l := rfl
@[simp] theorem State.cluster_onMe (s : State) (f : Core → Core) (l : ClusterId) :
    (s.onMe f).cluster l = s.cluster l := rfl

@[simp] theorem State.ctx_onCtx (s : State) (x : CtxId) (f : Ctx → Ctx) :
    (s.onCtx x f).ctx x = f (s.ctx x) := by simp [State.ctx, State.onCtx]

theorem State.ctx_onCtx_ne (s : State) {x y : CtxId} (f : Ctx → Ctx) (h : x ≠ y) :
    (s.onCtx x f).ctx y = s.ctx y := by
  simp only [State.ctx, State.onCtx]
  exact Vector.getElem_set_ne _ _ (fun e => h (BitVec.eq_of_toNat_eq e))

@[simp] theorem State.ctx_setCore (s : State) (c : CoreId) (k : Core) (x : CtxId) :
    (s.setCore c k).ctx x = s.ctx x := rfl
@[simp] theorem State.ctx_onMe (s : State) (f : Core → Core) (x : CtxId) : (s.onMe f).ctx x = s.ctx x := rfl

/-! ### What a context keeps on a core -/

@[simp] theorem Core.pctxOf_onPctxOf (k : Core) (x : CtxId) (f : PerCtx → PerCtx) :
    (k.onPctxOf x f).pctxOf x = f (k.pctxOf x) := by simp [Core.pctxOf, Core.onPctxOf]

theorem Core.pctxOf_onPctxOf_ne (k : Core) {x y : CtxId} (f : PerCtx → PerCtx) (h : x ≠ y) :
    (k.onPctxOf x f).pctxOf y = k.pctxOf y := by
  simp only [Core.pctxOf, Core.onPctxOf]
  exact Vector.getElem_set_ne _ _ (fun e => h (BitVec.eq_of_toNat_eq e))

@[simp] theorem Core.pctx_onPctx (k : Core) (f : PerCtx → PerCtx) : (k.onPctx f).pctx = f k.pctx := by
  simp only [Core.pctx, Core.onPctx]
  exact Core.pctxOf_onPctxOf k k.ctx f

end Sys2Proof.Machine
end

