-- ==== Sys2Proof/Laws/Move.lean ====
section
/-! SUPPORT. What charging a slot leaves as it was, and how a move's outcome follows from its commit. -/

namespace Sys2Proof.Machine

/-! ### The charge of a slot (R256, R258): the counters of one core, and the event of a saturation -/

theorem State.postEvent_core (s : State) (x : CtxId) (code src pay : Nat) (c : CoreId) :
    (s.postEvent x code src pay).core c = s.core c := by
  simp only [State.postEvent]; split <;> rfl

theorem State.chargeUnits_core (s : State) (c : CoreId) (w : Nat) (d : CoreId) :
    ∃ v, (s.chargeUnits c w).core d = { s.core d with pc' := v } := by
  by_cases h : c = d
  · subst h
    simp only [State.chargeUnits]
    split
    · exact ⟨_, rfl⟩
    · split
      · simp only [State.core_setCore]; exact ⟨_, rfl⟩
      · simp only [State.postEvent_core, State.core_setCore]; exact ⟨_, rfl⟩
  · simp only [State.chargeUnits]
    split
    · exact ⟨_, rfl⟩
    · split
      · rw [State.core_setCore_ne _ _ h]; exact ⟨_, rfl⟩
      · rw [State.postEvent_core, State.core_setCore_ne _ _ h]; exact ⟨_, rfl⟩

@[simp] theorem State.chargeSlot_now (s : State) (i : Instr) : (s.chargeSlot i).now = s.now := by
  simp only [State.chargeSlot, State.chargeUnits, State.postEvent]; repeat' split
  all_goals rfl
@[simp] theorem State.chargeSlot_clusters (s : State) (i : Instr) : (s.chargeSlot i).clusters = s.clusters := by
  simp only [State.chargeSlot, State.chargeUnits, State.postEvent]; repeat' split
  all_goals rfl
@[simp] theorem State.chargeSlot_poison (s : State) (i : Instr) : (s.chargeSlot i).poison = s.poison := by
  simp only [State.chargeSlot, State.chargeUnits, State.postEvent]; repeat' split
  all_goals rfl
@[simp] theorem State.chargeSlot_sward (s : State) (i : Instr) : (s.chargeSlot i).sward = s.sward := by
  simp only [State.chargeSlot, State.chargeUnits, State.postEvent]; repeat' split
  all_goals rfl
@[simp] theorem State.chargeSlot_swardB (s : State) (i : Instr) : (s.chargeSlot i).swardB = s.swardB := by
  simp only [State.chargeSlot, State.chargeUnits, State.postEvent]; repeat' split
  all_goals rfl
@[simp] theorem State.chargeSlot_slines (s : State) (i : Instr) : (s.chargeSlot i).slines = s.slines := by
  simp only [State.chargeSlot, State.chargeUnits, State.postEvent]; repeat' split
  all_goals rfl
@[simp] theorem State.chargeSlot_setCtr (s : State) (i : Instr) : (s.chargeSlot i).setCtr = s.setCtr := by
  simp only [State.chargeSlot, State.chargeUnits, State.postEvent]; repeat' split
  all_goals rfl
@[simp] theorem State.chargeSlot_granules (s : State) (i : Instr) : (s.chargeSlot i).granules = s.granules := by
  simp only [State.chargeSlot, State.chargeUnits, State.postEvent]; repeat' split
  all_goals rfl
@[simp] theorem State.chargeSlot_syncs (s : State) (i : Instr) : (s.chargeSlot i).syncs = s.syncs := by
  simp only [State.chargeSlot, State.chargeUnits, State.postEvent]; repeat' split
  all_goals rfl
@[simp] theorem State.chargeSlot_reqs (s : State) (i : Instr) : (s.chargeSlot i).reqs = s.reqs := by
  simp only [State.chargeSlot, State.chargeUnits, State.postEvent]; repeat' split
  all_goals rfl
@[simp] theorem State.chargeSlot_joins (s : State) (i : Instr) : (s.chargeSlot i).joins = s.joins := by
  simp only [State.chargeSlot, State.chargeUnits, State.postEvent]; repeat' split
  all_goals rfl
@[simp] theorem State.chargeSlot_launches (s : State) (i : Instr) : (s.chargeSlot i).launches = s.launches := by
  simp only [State.chargeSlot, State.chargeUnits, State.postEvent]; repeat' split
  all_goals rfl
@[simp] theorem State.chargeSlot_streams (s : State) (i : Instr) : (s.chargeSlot i).streams = s.streams := by
  simp only [State.chargeSlot, State.chargeUnits, State.postEvent]; repeat' split
  all_goals rfl
@[simp] theorem State.chargeSlot_trees (s : State) (i : Instr) : (s.chargeSlot i).trees = s.trees := by
  simp only [State.chargeSlot, State.chargeUnits, State.postEvent]; repeat' split
  all_goals rfl
@[simp] theorem State.chargeSlot_kvCount (s : State) (i : Instr) : (s.chargeSlot i).kvCount = s.kvCount := by
  simp only [State.chargeSlot, State.chargeUnits, State.postEvent]; repeat' split
  all_goals rfl
@[simp] theorem State.chargeSlot_kvOwner (s : State) (i : Instr) : (s.chargeSlot i).kvOwner = s.kvOwner := by
  simp only [State.chargeSlot, State.chargeUnits, State.postEvent]; repeat' split
  all_goals rfl
@[simp] theorem State.chargeSlot_encs (s : State) (i : Instr) : (s.chargeSlot i).encs = s.encs := by
  simp only [State.chargeSlot, State.chargeUnits, State.postEvent]; repeat' split
  all_goals rfl
@[simp] theorem State.chargeSlot_decs (s : State) (i : Instr) : (s.chargeSlot i).decs = s.decs := by
  simp only [State.chargeSlot, State.chargeUnits, State.postEvent]; repeat' split
  all_goals rfl
@[simp] theorem State.chargeSlot_die (s : State) (i : Instr) : (s.chargeSlot i).die = s.die := by
  simp only [State.chargeSlot, State.chargeUnits, State.postEvent]; repeat' split
  all_goals rfl
@[simp] theorem State.chargeSlot_hostVc (s : State) (i : Instr) : (s.chargeSlot i).hostVc = s.hostVc := by
  simp only [State.chargeSlot, State.chargeUnits, State.postEvent]; repeat' split
  all_goals rfl
@[simp] theorem State.chargeSlot_cur (s : State) (i : Instr) : (s.chargeSlot i).cur = s.cur := by
  simp only [State.chargeSlot, State.chargeUnits, State.postEvent]; repeat' split
  all_goals rfl
@[simp] theorem State.chargeSlot_events (s : State) (i : Instr) : (s.chargeSlot i).events = s.events := by
  simp only [State.chargeSlot, State.chargeUnits, State.postEvent]; repeat' split
  all_goals rfl
@[simp] theorem State.chargeSlot_stimuli (s : State) (i : Instr) : (s.chargeSlot i).stimuli = s.stimuli := by
  simp only [State.chargeSlot, State.chargeUnits, State.postEvent]; repeat' split
  all_goals rfl
@[simp] theorem State.chargeSlot_delays (s : State) (i : Instr) : (s.chargeSlot i).delays = s.delays := by
  simp only [State.chargeSlot, State.chargeUnits, State.postEvent]; repeat' split
  all_goals rfl
@[simp] theorem State.chargeSlot_nextId (s : State) (i : Instr) : (s.chargeSlot i).nextId = s.nextId := by
  simp only [State.chargeSlot, State.chargeUnits, State.postEvent]; repeat' split
  all_goals rfl
@[simp] theorem State.chargeSlot_free (s : State) (i : Instr) : (s.chargeSlot i).free = s.free := by
  simp only [State.chargeSlot, State.chargeUnits, State.postEvent]; repeat' split
  all_goals rfl

theorem State.chargeSlot_me_form (s : State) (i : Instr) :
    ∃ v, (s.chargeSlot i).me = { s.me with pc' := v } := by
  simp only [State.me, State.chargeSlot_cur]
  exact State.chargeUnits_core s s.cur _ s.cur

@[simp] theorem State.chargeSlot_me_time (s : State) (i : Instr) : (s.chargeSlot i).me.time = s.me.time := by
  obtain ⟨v, h⟩ := s.chargeSlot_me_form i; rw [h]
@[simp] theorem State.chargeSlot_me_ctx (s : State) (i : Instr) : (s.chargeSlot i).me.ctx = s.me.ctx := by
  obtain ⟨v, h⟩ := s.chargeSlot_me_form i; rw [h]
@[simp] theorem State.chargeSlot_me_phase (s : State) (i : Instr) : (s.chargeSlot i).me.phase = s.me.phase := by
  obtain ⟨v, h⟩ := s.chargeSlot_me_form i; rw [h]
@[simp] theorem State.chargeSlot_me_pc (s : State) (i : Instr) : (s.chargeSlot i).me.pc = s.me.pc := by
  obtain ⟨v, h⟩ := s.chargeSlot_me_form i; rw [h]
@[simp] theorem State.chargeSlot_me_halves (s : State) (i : Instr) : (s.chargeSlot i).me.halves = s.me.halves := by
  obtain ⟨v, h⟩ := s.chargeSlot_me_form i; rw [h]
@[simp] theorem State.chargeSlot_me_halfCtx (s : State) (i : Instr) : (s.chargeSlot i).me.halfCtx = s.me.halfCtx := by
  obtain ⟨v, h⟩ := s.chargeSlot_me_form i; rw [h]
@[simp] theorem State.chargeSlot_me_cur (s : State) (i : Instr) : (s.chargeSlot i).me.cur = s.me.cur := by
  obtain ⟨v, h⟩ := s.chargeSlot_me_form i; rw [h]
@[simp] theorem State.chargeSlot_me_run (s : State) (i : Instr) : (s.chargeSlot i).me.run = s.me.run := by
  obtain ⟨v, h⟩ := s.chargeSlot_me_form i; rw [h]
@[simp] theorem State.chargeSlot_me_rf (s : State) (i : Instr) : (s.chargeSlot i).me.rf = s.me.rf := by
  obtain ⟨v, h⟩ := s.chargeSlot_me_form i; rw [h]
@[simp] theorem State.chargeSlot_me_lat (s : State) (i : Instr) : (s.chargeSlot i).me.lat = s.me.lat := by
  obtain ⟨v, h⟩ := s.chargeSlot_me_form i; rw [h]
@[simp] theorem State.chargeSlot_me_ports (s : State) (i : Instr) : (s.chargeSlot i).me.ports = s.me.ports := by
  obtain ⟨v, h⟩ := s.chargeSlot_me_form i; rw [h]
@[simp] theorem State.chargeSlot_me_loops (s : State) (i : Instr) : (s.chargeSlot i).me.loops = s.me.loops := by
  obtain ⟨v, h⟩ := s.chargeSlot_me_form i; rw [h]
@[simp] theorem State.chargeSlot_me_vrb (s : State) (i : Instr) : (s.chargeSlot i).me.vrb = s.me.vrb := by
  obtain ⟨v, h⟩ := s.chargeSlot_me_form i; rw [h]
@[simp] theorem State.chargeSlot_me_prb (s : State) (i : Instr) : (s.chargeSlot i).me.prb = s.me.prb := by
  obtain ⟨v, h⟩ := s.chargeSlot_me_form i; rw [h]
@[simp] theorem State.chargeSlot_me_ccyc (s : State) (i : Instr) : (s.chargeSlot i).me.ccyc = s.me.ccyc := by
  obtain ⟨v, h⟩ := s.chargeSlot_me_form i; rw [h]
@[simp] theorem State.chargeSlot_me_frz (s : State) (i : Instr) : (s.chargeSlot i).me.frz = s.me.frz := by
  obtain ⟨v, h⟩ := s.chargeSlot_me_form i; rw [h]
@[simp] theorem State.chargeSlot_me_splc (s : State) (i : Instr) : (s.chargeSlot i).me.splc = s.me.splc := by
  obtain ⟨v, h⟩ := s.chargeSlot_me_form i; rw [h]
@[simp] theorem State.chargeSlot_me_bs (s : State) (i : Instr) : (s.chargeSlot i).me.bs = s.me.bs := by
  obtain ⟨v, h⟩ := s.chargeSlot_me_form i; rw [h]
@[simp] theorem State.chargeSlot_me_masked (s : State) (i : Instr) : (s.chargeSlot i).me.masked = s.me.masked := by
  obtain ⟨v, h⟩ := s.chargeSlot_me_form i; rw [h]
@[simp] theorem State.chargeSlot_me_capsule (s : State) (i : Instr) : (s.chargeSlot i).me.capsule = s.me.capsule := by
  obtain ⟨v, h⟩ := s.chargeSlot_me_form i; rw [h]
@[simp] theorem State.chargeSlot_me_capst (s : State) (i : Instr) : (s.chargeSlot i).me.capst = s.me.capst := by
  obtain ⟨v, h⟩ := s.chargeSlot_me_form i; rw [h]
@[simp] theorem State.chargeSlot_me_readTimes (s : State) (i : Instr) : (s.chargeSlot i).me.readTimes = s.me.readTimes := by
  obtain ⟨v, h⟩ := s.chargeSlot_me_form i; rw [h]
@[simp] theorem State.chargeSlot_me_ui (s : State) (i : Instr) : (s.chargeSlot i).me.ui = s.me.ui := by
  obtain ⟨v, h⟩ := s.chargeSlot_me_form i; rw [h]
@[simp] theorem State.chargeSlot_me_fl (s : State) (i : Instr) : (s.chargeSlot i).me.fl = s.me.fl := by
  obtain ⟨v, h⟩ := s.chargeSlot_me_form i; rw [h]
@[simp] theorem State.chargeSlot_me_lsHold (s : State) (i : Instr) : (s.chargeSlot i).me.lsHold = s.me.lsHold := by
  obtain ⟨v, h⟩ := s.chargeSlot_me_form i; rw [h]
@[simp] theorem State.chargeSlot_me_lsHoldUi (s : State) (i : Instr) : (s.chargeSlot i).me.lsHoldUi = s.me.lsHoldUi := by
  obtain ⟨v, h⟩ := s.chargeSlot_me_form i; rw [h]
@[simp] theorem State.chargeSlot_me_lsYoungUi (s : State) (i : Instr) : (s.chargeSlot i).me.lsYoungUi = s.me.lsYoungUi := by
  obtain ⟨v, h⟩ := s.chargeSlot_me_form i; rw [h]
@[simp] theorem State.chargeSlot_me_lsYoung (s : State) (i : Instr) : (s.chargeSlot i).me.lsYoung = s.me.lsYoung := by
  obtain ⟨v, h⟩ := s.chargeSlot_me_form i; rw [h]
@[simp] theorem State.chargeSlot_me_bad (s : State) (i : Instr) : (s.chargeSlot i).me.bad = s.me.bad := by
  obtain ⟨v, h⟩ := s.chargeSlot_me_form i; rw [h]
@[simp] theorem State.chargeSlot_me_late (s : State) (i : Instr) : (s.chargeSlot i).me.late = s.me.late := by
  obtain ⟨v, h⟩ := s.chargeSlot_me_form i; rw [h]
@[simp] theorem State.chargeSlot_me_l1 (s : State) (i : Instr) : (s.chargeSlot i).me.l1 = s.me.l1 := by
  obtain ⟨v, h⟩ := s.chargeSlot_me_form i; rw [h]
@[simp] theorem State.chargeSlot_me_epoch (s : State) (i : Instr) : (s.chargeSlot i).me.epoch = s.me.epoch := by
  obtain ⟨v, h⟩ := s.chargeSlot_me_form i; rw [h]
@[simp] theorem State.chargeSlot_me_spad (s : State) (i : Instr) : (s.chargeSlot i).me.spad = s.me.spad := by
  obtain ⟨v, h⟩ := s.chargeSlot_me_form i; rw [h]
@[simp] theorem State.chargeSlot_me_cp (s : State) (i : Instr) : (s.chargeSlot i).me.cp = s.me.cp := by
  obtain ⟨v, h⟩ := s.chargeSlot_me_form i; rw [h]
@[simp] theorem State.chargeSlot_me_ga (s : State) (i : Instr) : (s.chargeSlot i).me.ga = s.me.ga := by
  obtain ⟨v, h⟩ := s.chargeSlot_me_form i; rw [h]
@[simp] theorem State.chargeSlot_me_mx (s : State) (i : Instr) : (s.chargeSlot i).me.mx = s.me.mx := by
  obtain ⟨v, h⟩ := s.chargeSlot_me_form i; rw [h]
@[simp] theorem State.chargeSlot_me_q0 (s : State) (i : Instr) : (s.chargeSlot i).me.q0 = s.me.q0 := by
  obtain ⟨v, h⟩ := s.chargeSlot_me_form i; rw [h]
@[simp] theorem State.chargeSlot_me_q1 (s : State) (i : Instr) : (s.chargeSlot i).me.q1 = s.me.q1 := by
  obtain ⟨v, h⟩ := s.chargeSlot_me_form i; rw [h]
@[simp] theorem State.chargeSlot_me_resv0 (s : State) (i : Instr) : (s.chargeSlot i).me.resv0 = s.me.resv0 := by
  obtain ⟨v, h⟩ := s.chargeSlot_me_form i; rw [h]
@[simp] theorem State.chargeSlot_me_resv1 (s : State) (i : Instr) : (s.chargeSlot i).me.resv1 = s.me.resv1 := by
  obtain ⟨v, h⟩ := s.chargeSlot_me_form i; rw [h]
@[simp] theorem State.chargeSlot_me_q2 (s : State) (i : Instr) : (s.chargeSlot i).me.q2 = s.me.q2 := by
  obtain ⟨v, h⟩ := s.chargeSlot_me_form i; rw [h]
@[simp] theorem State.chargeSlot_me_q3 (s : State) (i : Instr) : (s.chargeSlot i).me.q3 = s.me.q3 := by
  obtain ⟨v, h⟩ := s.chargeSlot_me_form i; rw [h]
@[simp] theorem State.chargeSlot_me_q3cnt (s : State) (i : Instr) : (s.chargeSlot i).me.q3cnt = s.me.q3cnt := by
  obtain ⟨v, h⟩ := s.chargeSlot_me_form i; rw [h]
@[simp] theorem State.chargeSlot_me_sg (s : State) (i : Instr) : (s.chargeSlot i).me.sg = s.me.sg := by
  obtain ⟨v, h⟩ := s.chargeSlot_me_form i; rw [h]
@[simp] theorem State.chargeSlot_me_slot3 (s : State) (i : Instr) : (s.chargeSlot i).me.slot3 = s.me.slot3 := by
  obtain ⟨v, h⟩ := s.chargeSlot_me_form i; rw [h]
@[simp] theorem State.chargeSlot_me_inSlice (s : State) (i : Instr) : (s.chargeSlot i).me.inSlice = s.me.inSlice := by
  obtain ⟨v, h⟩ := s.chargeSlot_me_form i; rw [h]
@[simp] theorem State.chargeSlot_me_sliceFrom (s : State) (i : Instr) : (s.chargeSlot i).me.sliceFrom = s.me.sliceFrom := by
  obtain ⟨v, h⟩ := s.chargeSlot_me_form i; rw [h]
@[simp] theorem State.chargeSlot_me_budget (s : State) (i : Instr) : (s.chargeSlot i).me.budget = s.me.budget := by
  obtain ⟨v, h⟩ := s.chargeSlot_me_form i; rw [h]
@[simp] theorem State.chargeSlot_me_switchDue (s : State) (i : Instr) : (s.chargeSlot i).me.switchDue = s.me.switchDue := by
  obtain ⟨v, h⟩ := s.chargeSlot_me_form i; rw [h]
@[simp] theorem State.chargeSlot_me_idleFrom (s : State) (i : Instr) : (s.chargeSlot i).me.idleFrom = s.me.idleFrom := by
  obtain ⟨v, h⟩ := s.chargeSlot_me_form i; rw [h]
@[simp] theorem State.chargeSlot_me_idle (s : State) (i : Instr) : (s.chargeSlot i).me.idle = s.me.idle := by
  obtain ⟨v, h⟩ := s.chargeSlot_me_form i; rw [h]
@[simp] theorem State.chargeSlot_me_resFrom (s : State) (i : Instr) : (s.chargeSlot i).me.resFrom = s.me.resFrom := by
  obtain ⟨v, h⟩ := s.chargeSlot_me_form i; rw [h]
@[simp] theorem State.chargeSlot_me_w3 (s : State) (i : Instr) : (s.chargeSlot i).me.w3 = s.me.w3 := by
  obtain ⟨v, h⟩ := s.chargeSlot_me_form i; rw [h]
@[simp] theorem State.chargeSlot_me_outPipe (s : State) (i : Instr) : (s.chargeSlot i).me.outPipe = s.me.outPipe := by
  obtain ⟨v, h⟩ := s.chargeSlot_me_form i; rw [h]
@[simp] theorem State.chargeSlot_me_inPipe (s : State) (i : Instr) : (s.chargeSlot i).me.inPipe = s.me.inPipe := by
  obtain ⟨v, h⟩ := s.chargeSlot_me_form i; rw [h]
@[simp] theorem State.chargeSlot_me_gangHold (s : State) (i : Instr) : (s.chargeSlot i).me.gangHold = s.me.gangHold := by
  obtain ⟨v, h⟩ := s.chargeSlot_me_form i; rw [h]

@[simp] theorem State.chargeSlot_me_port (s : State) (i : Instr) (p : Port) :
    (s.chargeSlot i).me.port p = s.me.port p := by simp [Core.port]

@[simp] theorem State.chargeSlot_cluster (s : State) (i : Instr) (k : ClusterId) :
    (s.chargeSlot i).cluster k = s.cluster k := by simp [State.cluster]

/-! ### The outcome of a move -/

/-- A move whose commit succeeds takes the state of its commit, the deferred accesses of ls performed. -/
theorem runMove_ok {i : Instr} {f : V512 → State → Commit} {s t : State} {v : V512}
    (hv : s.slotValue i = .val v) (hp : s.phaseBars i = false) (ha : s.holds i = false)
    (hc : f v (s.chargeSlot i) = .ok t) : runMove i f s = .next t.flushDeferred := by
  simp [runMove, State.guardMove, hv, hp, ha, hc]

/-- A move whose commit is refused traps in its slot with the begun flag set (R66). -/
theorem runMove_raise {i : Instr} {f : V512 → State → Commit} {s : State} {v : V512} {c : Cause} {a : Option W64}
    (hv : s.slotValue i = .val v) (hp : s.phaseBars i = false) (ha : s.holds i = false)
    (hc : f v (s.chargeSlot i) = .raise c a) : runMove i f s = .next (s.fault c a s.me.bs.slot true) := by
  simp [runMove, State.guardMove, hv, hp, ha, hc]

/-- A move that is committed and then traps does so with the slot after it (R232). -/
theorem runMove_after {i : Instr} {f : V512 → State → Commit} {s t : State} {v : V512} {c : Cause} {a : W64}
    (hv : s.slotValue i = .val v) (hp : s.phaseBars i = false) (ha : s.holds i = false)
    (hc : f v (s.chargeSlot i) = .after t c a) :
    runMove i f s = .next (t.fault c (some a) (s.me.bs.slot + 1) true) := by
  simp [runMove, State.guardMove, hv, hp, ha, hc]

/-- A move whose commit waits freezes its bundle (R65). -/
theorem runMove_freeze {i : Instr} {f : V512 → State → Commit} {s : State} {v : V512} {w : Wait}
    (hv : s.slotValue i = .val v) (hp : s.phaseBars i = false) (ha : s.holds i = false)
    (hc : f v (s.chargeSlot i) = .freeze w) : runMove i f s = .next (s.freeze [w] s.me.bs.slot) := by
  simp [runMove, State.guardMove, hv, hp, ha, hc]

/-- Nothing deferred, nothing to perform. -/
theorem State.flushDeferred_none {s : State} (h : s.me.bs.deferred = []) : s.flushDeferred = s := by
  have : (s.me.bs.deferred.foldl (fun (t : State) (_ : Deferred) => t) s) = s := by rw [h]; rfl
  simp only [State.flushDeferred, h, List.foldl_nil]
  refine State.onMe_same s ?_
  show { s.me with bs := { s.me.bs with deferred := [] } } = s.me
  rw [← h]

/-! ### Pieces of commits -/

theorem needPort_some {s : State} {p : Port} {x : V512} (f : V512 → Commit) (h : s.me.port p = some x) :
    needPort s p f = f x := by simp [needPort, h]

theorem needPort_none {s : State} {p : Port} (f : V512 → Commit) (h : s.me.port p = none) :
    needPort s p f = .raise .illopd none := by simp [needPort, h]

theorem withDest_keep (s : State) (cls : ResClass) (dp : Port) (f : Option RegName → Commit) :
    withDest s cls true dp f = f none := by simp [withDest]

end Sys2Proof.Machine
end

