-- ==== Sys2Proof/Laws/Claims.lean ====
section
/-! SUPPORT. How the commits of the units reach the form in which the statements say their results. -/

namespace Sys2Proof.Machine

open Sys2Proof.Claims

/-- A trigger with a destination delivers in the state the slot was charged in. -/
theorem withDest_of_destOf {s : State} {i : Instr} {cls : ResClass} {keep : Bool} {dp : Port}
    {d : Option RegName} (f : Option RegName → Commit) (h : destOf s cls keep dp = some d) :
    withDest (s.chargeSlot i) cls keep dp f = f d := by
  simp only [destOf] at h
  cases keep with
  | true => simp only [if_true, Option.some.injEq] at h; subst h; simp [withDest]
  | false =>
    simp only [Bool.false_eq_true, if_false] at h
    cases hp : s.me.port dp with
    | none => rw [hp] at h; simp at h
    | some w =>
      rw [hp] at h
      dsimp only at h
      have hw : (BitVec.ofNat 8 w.toNat).toNat = w.toNat % 256 := by simp
      simp only [withDest, State.chargeSlot_me_port, hp, Bool.false_eq_true, if_false, hw]
      cases hn : destCount cls (w.toNat % 256) with
      | none => rw [hn] at h; simp at h
      | some n =>
        rw [hn] at h
        dsimp only at h
        simp only [State.chargeSlot_me_vrb, State.chargeSlot_me_prb, State.chargeSlot_me_fl]
        split at h
        · simp at h
        · next hb =>
          simp only [Option.some.injEq] at h
          subst h
          rw [if_neg hb]

/-- A delivery in the state the slot was charged in. -/
theorem deliver_of_destOf {s : State} {i : Instr} {cls : ResClass} {keep : Bool} {dp : Port}
    {d : Option RegName} (u : FUnit) (v : V512) (fl : Flags) (lat : Nat) (w : Option Instr)
    (h : destOf s cls keep dp = some d) :
    deliver (s.chargeSlot i) u cls keep dp v fl lat w = .ok (delivers (s.chargeSlot i) u cls d v fl lat w) := by
  rw [deliver, withDest_of_destOf _ h]
  cases w <;> rfl

/-- An integer trigger that reads ia.x or ib.x gives its result, whatever expression says its value. -/
theorem intGives_of {i : Instr} {u : IntUnit} {k : Bool} {lat : Nat} {r : V512 → V512 → BitVec 64}
    (n : Nat → Nat → Nat) (c : V512 → State → Commit) (hr : ∀ s, exec i s = runMove i c s)
    (hc : ∀ v s, c v s = needPort s (intX u) fun x => intDeliver s u k lat (n (sval x) (sval v)))
    (hv : ∀ x v : V512, BitVec.ofNat 512 (n (sval x) (sval v)) = wide (r x v)) : IntGives i u k lat r := by
  intro s v x d hs hx hd
  rw [hr, runMove_ok hs.1 hs.2.1 hs.2.2]
  rw [hc, needPort_some _ (by simpa using hx), intDeliver, hv, State.chargeSlot_cur]
  exact deliver_of_destOf _ _ _ _ _ hd

/-- The same for a trigger of the source alone. -/
theorem intGivesUnary_of {i : Instr} {u : IntUnit} {k : Bool} {r : V512 → BitVec 64}
    (n : Nat → Nat) (c : V512 → State → Commit) (hr : ∀ s, exec i s = runMove i c s)
    (hc : ∀ v s, c v s = intDeliver s u k 1 (n (sval v)))
    (hv : ∀ v : V512, BitVec.ofNat 512 (n (sval v)) = wide (r v)) : IntGivesUnary i u k r := by
  intro s v d hs hd
  rw [hr, runMove_ok hs.1 hs.2.1 hs.2.2]
  rw [hc, intDeliver, hv, State.chargeSlot_cur]
  exact deliver_of_destOf _ _ _ _ _ hd

end Sys2Proof.Machine
end

