-- ==== Sys2Proof/Machine/Loader.lean ====
section
/-! DEFINITION. How an image comes into device memory: the relocations of an object applied to its sections, all or
none (R83 to R85). What runs it from there on are the die's own steps (log 13, log 37). -/

namespace Sys2Proof.Machine

/-- A relocation entry (R83). -/
structure Reloc where
  off : Nat
  typ : Nat
  sec : Nat
  sym : Nat
  add : Int
deriving DecidableEq, Repr

/-- The entry that 24 bytes hold (R83). -/
def relocOf (v : Nat) : Reloc where
  off := getBytes v 0 8
  typ := getBytes v 8 2
  sec := getBytes v 10 2
  sym := getBytes v 12 4
  add := sx (getBytes v 16 8) 64

/-- Whether S + A fits the field of a relocation type; no other type is taken (R84, R85). -/
def relocFits (typ : Nat) (v : Int) : Bool :=
  match typ with
  | 1 => true
  | 2 => decide (-2 ^ 31 ≤ v ∧ v < 2 ^ 32)
  | 3 => decide (-2 ^ 31 ≤ v ∧ v < 2 ^ 32)
  | 4 => decide (-128 ≤ v ∧ v ≤ 127)
  | 5 => decide (0 ≤ v ∧ v < 2 ^ 56 ∧ v % 32 = 0)
  | 6 => decide (0 ≤ v ∧ v < 2 ^ 56 ∧ v % 256 = 0)
  | 7 => decide (0 ≤ v ∧ v ≤ 127)
  | _ => false

/-- The field a type patches: bits below it in the byte at OFF, its width, and the bits of S + A left out below it
(R50, R56, R71, R84). SVAL begins at bit 14 of a slot, bit 6 of its second byte (log 37). -/
def relocField (typ : Nat) : Nat × Nat × Nat :=
  match typ with
  | 1 => (0, 64, 0)
  | 2 => (0, 32, 0)
  | 3 => (0, 32, 0)
  | 4 => (6, 8, 0)
  | 5 => (0, 56, 0)
  | 6 => (0, 48, 8)
  | _ => (0, 8, 0)

/-- The bytes of a section with a field at an offset patched. -/
def patchBytes (l : List Byte) (off typ : Nat) (v : Int) : List Byte :=
  let (lo, w, drop) := relocField typ
  let n := (lo + w + 7) / 8
  let old := ofBytes ((l.drop off).take n)
  l.take off ++ toBytes n (setBits old lo w (wrap (v / 2 ^ drop) w)) ++ l.drop (off + n)

/-- A symbol of an object and its address or value (R83). -/
structure LoadSym where
  name : String
  value : Int
deriving DecidableEq, Repr

/-- A section placed at a device address (R82, R83). -/
structure Section where
  name : String
  addr : Nat
  bytes : List Byte
deriving DecidableEq, Repr

/-- What `gorbld` reports of the first entry that fails (R85). -/
structure RelocReport where
  cause : Cause
  symName : String
  sectName : String
  off : Nat
deriving DecidableEq, Repr

/-- The report of an entry; a name that its index does not have is empty. -/
def Reloc.report (r : Reloc) (sym : List LoadSym) (image : List Section) : RelocReport :=
  ⟨.relocfit, (sym[r.sym]?.map (·.name)).getD "", (image[r.sec]?.map (·.name)).getD "", r.off⟩

/-- The section that an entry patches, patched; none where its value does not fit its field, its type is none of the
seven, or it names no symbol or place of the image (R84, R85). -/
def Reloc.patch (r : Reloc) (sym : List LoadSym) (image : List Section) : Option Section :=
  match sym[r.sym]?, image[r.sec]? with
  | some v, some t =>
    let n := ((relocField r.typ).1 + (relocField r.typ).2.1 + 7) / 8
    if relocFits r.typ (v.value + r.add) && decide (r.off + n ≤ t.bytes.length)
    then some { t with bytes := patchBytes t.bytes r.off r.typ (v.value + r.add) } else none
  | _, _ => none

/-- Entries applied in table order to sections of the image; the first that fails refuses them all (R85). -/
def applyRelocs (sym : List LoadSym) : List Reloc → List Section → Except RelocReport (List Section)
  | [], image => .ok image
  | r :: rest, image =>
    match r.patch sym image with
    | some t => applyRelocs sym rest (setAt image r.sec t)
    | none => .error (r.report sym image)

/-- An image loaded: every section at its address, or nothing written and the report of the first entry that fails
(R85). -/
def State.loadImage (s : State) (sym : List LoadSym) (rels : List Reloc) (image : List Section) :
    State × Option RelocReport :=
  match applyRelocs sym rels image with
  | .error e => (s, some e)
  | .ok l => (l.foldl (fun s e => s.writeDie e.addr e.bytes.length (ofBytes e.bytes)) s, none)

end Sys2Proof.Machine
end

