-- ==== Sys2Proof/Tests/Slice0.lean ====
section
/-! SUPPORT. Tests: words of the spec's encodings, what well-formedness refuses, small steps with results taken
from the spec, and for each statement states and operands that meet its hypotheses. -/

set_option maxRecDepth 100000
set_option exponentiation.threshold 1024

namespace Sys2Proof.Tests

open Sys2Proof.Machine Sys2Proof.Claims

/-- An immediate source. -/
def imm (n : Nat) : Mv := ⟨.imm (BitVec.ofNat 8 n), false⟩

/-- A register source. -/
def reg (n : Nat) : Mv := ⟨.reg (BitVec.ofNat 8 n), false⟩

/-- Core 0 runs a supervisor strand at a bundle alone in its segment. -/
def base : State := State.reset.withFetchWord 24 0xC41FF0

/-- Ports set on the executing core. -/
def put (s : State) (l : List (Port × Nat)) : State :=
  s.onMe fun k => l.foldl (fun k e => k.setPort e.1 (BitVec.ofNat 512 e.2)) k

/-- Registers of the executing core set, by physical name. -/
def regs (s : State) (l : List (Nat × Nat)) : State :=
  s.onMe fun k => { k with rf := l.foldl (fun r e => r.write e.1 e.2) k.rf }

/-- Bytes of device memory set: address, length, value. -/
def ram (s : State) (l : List (Nat × Nat × Nat)) : State :=
  { s with mem := l.foldl (fun m e => m.write e.1 e.2.1 e.2.2) s.mem }

/-- A handle of context 0 to the page at 2 MiB, and the scratchpad's. -/
def memH : Nat := (mkHandle 0 true true true 0 0 0x200000).toNat
def spadH : Nat := (spadHandle 0).toNat

/-- A commit that succeeds, and what it gives. -/
def okay : Commit → Bool
  | .ok _ => true
  | _ => false

/-- The state a meaning answers, or the one given. -/
def after (o : Host.Outcome State Fault Refusal) (s : State) : State :=
  match o with
  | .next t => t
  | _ => s

/-- The same with every unit's ports at hand: 5 in each scalar operand, a result register in each `.to`. -/
def full : State := put base [(.iaX, 5), (.ibX, 5), (.brX, 5), (.iaTo, 7), (.ibTo, 8), (.brTo, 9), (.lsTo, 10),
  (.vxTo, 0x50), (.qxTo, 11), (.tkTo, 12), (.syTo, 13), (.vxX, 3), (.vxY, 4), (.vxP, 0xFFFF), (.lsH, memH), (.lsX, 8)]

/-! ### Words of the encodings (R56 to R103): SSP << 22 | SVAL << 14 | K << 13 | DPORT << 4 | FSEL -/

/-- ia.add:w32z from g16, 00 | 0x10 | 0 | 0x102 | 2; ib.pass from b3, 01 | 3 | K | 0x13A | 0. -/
theorem test_decode_integer :
    decodeTableWord 24 0x041022 = some (.add .ia .w32z (reg 16)) ∧
    decodeTableWord 24 0x40F3A0 = some (.pass .ib .w64 ⟨.latch 3, true⟩) ∧
    decodeTableWord 24 0x805127 = some (.cmp .ia .gt (imm 1)) ∧ decodeTableWord 24 0x80512A = none := by decide

/-- pool -> br.call:seg; g4 -> br.bz; zero -> br.lpop. -/
theorem test_decode_branch :
    decodeTableWord 24 0xC01451 = some (.call .seg ⟨.pool .pool, false⟩) ∧
    decodeTableWord 24 0x011430 = some (.bz .abs (reg 4)) ∧
    decodeTableWord 24 0xC41470 = some (.lpop ⟨.pool .zero, false⟩) := by decide

/-- g2 -> ls.ld:ws; g3 -> ls.lda:d.die (0x00_D57E in the spec); 8 -> ls.fence:rel.sys; FSEL 12 of fence is none. -/
theorem test_decode_memory :
    decodeTableWord 24 0x009556 = some (.ld .ws (reg 2)) ∧
    decodeTableWord 24 0x00D57E = some (.lda .d .die (reg 3)) ∧
    decodeTableWord 24 0x82159B = some (.fence .rel .sys (imm 8)) ∧ decodeTableWord 24 0x82159C = none ∧
    decodeTableWord 24 0x0015F0 = some (.trn (reg 0)) := by decide

/-- v3 -> vx.vfma:bf16 .k (0x14_F7A1 in the spec); v0 -> vx.vcmpun:f16; p1 -> vx.vpl:not; g1 -> vx.vbcast:w16. -/
theorem test_decode_vector :
    decodeTableWord 24 0x14F7A1 = some (.vfma .bf16 ⟨.reg 0x53, true⟩) ∧
    decodeTableWord 24 0x141892 = some (.vcmpun .f16 (reg 0x50)) ∧
    decodeTableWord 24 0x2459F4 = some (.vpl .not (reg 0x91)) ∧
    decodeTableWord 24 0x005961 = some (.vbcast true (reg 1)) := by decide

/-- m3 -> mx.mld:resume; a1 -> mx.mmac:p16; a1 -> mx.mmac:zero; a0 -> mx.mdrain:q1; c2 -> mx.mldc. -/
theorem test_decode_matrix :
    decodeTableWord 24 0x2CDA81 = some (.mld true (reg 0xB3)) ∧
    decodeTableWord 24 0x305AA4 = some (.mmac .p16 (reg 0xC1)) ∧
    decodeTableWord 24 0x305AA8 = some (.mzero (reg 0xC1)) ∧
    decodeTableWord 24 0x301AB1 = some (.mdrain true (reg 0xC0)) ∧
    decodeTableWord 24 0x319AE0 = some (.mldc (reg 0xC6)) := by decide

/-- zero -> sg.stat:rows .k; 1 -> cp.go:out; zero -> cp.stat:wait; 2 -> ga.gth; 1 -> ga.mode. -/
theorem test_decode_engines :
    decodeTableWord 24 0xC43B62 = some (.sgStat .rows ⟨.pool .zero, true⟩) ∧
    decodeTableWord 24 0x805BC1 = some (.cpGo true (imm 1)) ∧
    decodeTableWord 24 0xC41BE1 = some (.cpStat true ⟨.pool .zero, false⟩) ∧
    decodeTableWord 24 0x809C30 = some (.gaGth (imm 2)) ∧
    decodeTableWord 24 0x805C60 = some (.gaMode (imm 1)) := by decide

/-- v2 -> qx.w5; 3 -> qx.qlvl:free; g1 -> qx.ringst:cons; v0 -> qx.xmit:s; 5 -> qx.xsel:w. -/
theorem test_decode_queues :
    decodeTableWord 24 0x149CD0 = some (.push (.reg 0x52) 5) ∧
    decodeTableWord 24 0x80DD21 = some (.qlvl true (imm 3)) ∧
    decodeTableWord 24 0x005D71 = some (.ringst .cons (reg 1)) ∧
    decodeTableWord 24 0x141D92 = some (.xmit .s (reg 0x50)) ∧
    decodeTableWord 24 0x815DA3 = some (.xsel .w (imm 5)) := by decide

/-- v4 -> tk.post; zero -> tk.end (0xC4_1E50 in the spec); 3 -> tk.arga; g5 -> tk.snpin:rel; g6 -> tk.kv:pin. -/
theorem test_decode_strands :
    decodeTableWord 24 0x151E20 = some (.post (reg 0x54)) ∧
    decodeTableWord 24 0xC41E50 = some (.endStrand ⟨.pool .zero, false⟩) ∧
    decodeTableWord 24 0x80DE60 = some (.arga (imm 3)) ∧
    decodeTableWord 24 0x015EC1 = some (.snrel (reg 5)) ∧
    decodeTableWord 24 0x019EE1 = some (.kvpin (reg 6)) ∧
    decodeTableWord 24 0x01DEF5 = some (.strd .origin (reg 7)) := by decide

/-- 9 -> sy.trap; 4 -> sy.clkdiv:mat; 1 -> sy.ncsw:clr; g0 -> sy.sysr; zero -> sy.capr:bundle. -/
theorem test_decode_system :
    decodeTableWord 24 0x825F60 = some (.trap (imm 9)) ∧
    decodeTableWord 24 0x811F82 = some (.clkdiv .mat (imm 4)) ∧
    decodeTableWord 24 0x805FB1 = some (.ncsw true (imm 1)) ∧
    decodeTableWord 24 0x001FC0 = some (.sysr (reg 0)) ∧
    decodeTableWord 24 0xC41FE3 = some (.capr .bundle ⟨.pool .zero, false⟩) := by decide

/-- g4 -> g5, 4 -> ia.x, the absent slot (0xC4_1FF0 in the spec); a special readable as destination, b12, an unlisted
selector, an m name toward a g register and K toward a register are refused. -/
theorem test_decode_moves :
    decodeTableWord 24 0x010050 = some (.moveToRegister (.reg 4) 5) ∧
    decodeTableWord 24 0x811000 = some (.operandPortWrite (.imm 4) .iaX) ∧
    decodeTableWord 24 0xC41FF0 = some (.nullMove 3 0x10 false 0) ∧
    decodeTableWord 24 0x000EC0 = none ∧ decodeTableWord 24 0x430000 = none ∧ decodeTableWord 24 0xC1C000 = none ∧
    decodeTableWord 24 0x2C0000 = none ∧ decodeTableWord 24 0x012050 = none := by decide

/-- An encoder's words are those of the spec. -/
theorem test_encode : encode (.lda .d .die (reg 3)) = some (24, 0x00D57E) ∧
    encode (.vfma .bf16 ⟨.reg 0x53, true⟩) = some (24, 0x14F7A1) ∧
    encode (.endStrand ⟨.pool .zero, false⟩) = some (24, 0xC41E50) ∧ encode (.pickup 3) = none := by decide

/-! ### What well-formedness refuses -/

/-- An unassigned special, K of a P result, K of a move, a class no port takes, an empty write, one past the address
space, a raise of nothing, a floor below 3 or above 15; and good terms beside them. -/
theorem test_wellFormed_refuses :
    WellFormed (.pass .ia .w64 (reg 0xFA)) = false ∧ WellFormed (.vcmpeq .int ⟨.reg 0x50, true⟩) = false ∧
    WellFormed (.add .ia .w64 (reg 0x50)) = false ∧ WellFormed (.mld false (reg 3)) = false ∧
    WellFormed (.push (.reg 0) 4) = false ∧ WellFormed (.moveToRegister (.imm 1) 0xEC) = false ∧
    WellFormed (.hostWriteArrive 0 []) = false ∧ WellFormed (.hostWriteArrive (BitVec.allOnes 52) [1, 2]) = false ∧
    WellFormed (.pressureRaise 0 0) = false ∧ WellFormed (.ageingCheck 0 2) = false ∧
    WellFormed (.ageingCheck 0 3) = true ∧ WellFormed (.pass .ia .w64 (reg 0xEC)) = true ∧
    WellFormed (.mld false (reg 0xB3)) = true ∧ WellFormed (.hostWriteArrive (BitVec.allOnes 52) [1]) = true := by
  decide


/-! The loader. -/

/-- R84: a SEGA relocation of label 0x12300 puts address bits [55:8] into W0 bits [63:16]; BIX8 beside it. -/
theorem test_relocations_patch :
    (match applyRelocs [⟨"a", 0x12300⟩, ⟨"b", 5⟩] [⟨2, 6, 0, 0, 0⟩, ⟨1, 7, 0, 1, 2⟩] [⟨"code", 256, List.replicate 8 0⟩] with
      | .ok l => l == [⟨"code", 256, [0, 7, 0x23, 1, 0, 0, 0, 0]⟩]
      | .error _ => false) = true := by decide

/-- R85: one value that does not fit refuses the whole image, nothing is written, and its symbol, section and place are
reported. -/
theorem test_relocfit_writes_nothing :
    (match applyRelocs [⟨"a", 0x12300⟩, ⟨"b", 200⟩] [⟨2, 6, 0, 0, 0⟩, ⟨6, 4, 0, 1, 0⟩] [⟨"code", 256, List.replicate 8 0⟩] with
      | .ok _ => none
      | .error e => some e) = some ⟨.relocfit, "b", "code", 6⟩ ∧
    relocFits 0 0 = false ∧ relocFits 2 (2 ^ 32) = false ∧ relocFits 2 (-2 ^ 31) = true ∧
    (base.loadImage [⟨"b", 200⟩] [⟨6, 4, 0, 0, 0⟩] [⟨"code", 256, List.replicate 8 0⟩]).1 = base :=
  ⟨by decide, by decide, by decide, by decide, rfl⟩

/-! ### Witnesses: states and operands that meet the hypotheses of the statements

A statement that asks that a move be ready, that its operand ports and registers be readable and that its result have
a place is met by `full` below, with the operand ports set. -/

/-- The value a slot of s reads, or 0. -/
def slotVal (s : State) (i : Instr) : V512 :=
  match s.slotValue i with
  | .val v => v
  | _ => 0

/-- A move is ready on s, with the value that its slot reads. -/
def ready (s : State) (i : Instr) : Bool :=
  decide (s.slotValue i = .val (slotVal s i)) && !s.phaseBars i && !s.holds i

theorem ready_iff (s : State) (i : Instr) (h : ready s i = true) : Ready s i (slotVal s i) := by
  simpa [ready, Ready, and_assoc] using h

/-- A trigger is ready on s, and its result has a place under K and through the `.to` port. -/
def placed (s : State) (i : Instr) (cls : ResClass) (dp : Port) : Bool :=
  ready s i && (destOf s cls true dp).isSome && (destOf s cls false dp).isSome

/-- BadHeaderRaisesIllenc: KIND 6 and a set reserved bit, at a bundle found in its segment. -/
theorem witness_header : (base.findSegment).1 = true ∧ (base.findSegment).2.me.segment.isSome = true ∧
    (∃ g, (base.findSegment).2.me.segment = some g ∧ g.bad = none ∧
      (base.findSegment).2.me.pc.bix.toNat < g.bundles.length) ∧
    6 ≤ hdrKind (bundleHeader (6 <<< 52)) ∧ (bundleHeader (1 <<< 32)).extractLsb' 32 4 ≠ 0 := by
  refine ⟨by decide, by decide, ⟨_, rfl, by decide, by decide⟩, by decide, by decide⟩

/-- StepRunsWhatIsDue: a core's turn with its bundle found; an event no later than any core. -/
theorem witness_step : base.turn = .core base.me.time base.cur ∧ (base.core base.cur).phase = .run ∧
    deadDue base (base.core base.cur) = false ∧ uiDue (base.core base.cur) = false ∧
    watchdogDue base (base.core base.cur) = none ∧
    (∃ g, (base.core base.cur).half (base.core base.cur).cur = .full g ∧
      g.addr = (base.core base.cur).pc.seg ∧ (g.bundles[(base.core base.cur).pc.bix.toNat]?).isSome = true) := by
  refine ⟨by decide, by decide, by decide, by decide, by decide, _, rfl, by decide, by decide⟩

/-- BundlesCommitTheirMovesInOrder: a slot before the resume point, and at and after it one that commits and one that
raises; and every bundle of absent slots decodes. -/
theorem witness_slots : (base.me.bs.slot < 3 ∧ base.me.bs.resume ≤ base.me.bs.slot) ∧
    (match slotCommit (.endStrand ⟨.pool .zero, false⟩) base with | .ok _ => true | _ => false) = true ∧
    (match slotCommit (.jmp .abs (imm 1)) base with | .raise c _ => decide (c = .illopd) | _ => false) = true ∧
    (match decodeBundle (probeBundle absentSlot) false with | .ok l => l.length == 8 | _ => false) = true := by decide

/-- MovesWriteTheirRegisterOrPort: g, v, p and h destinations that are free; ports of each unit, and a `.to`. -/
theorem witness_moves :
    [(.moveToRegister (.reg 3) 0), (.moveToRegister (.reg 0x50) 0x8F), (.moveToRegister (.reg 0x90) 0x97),
     (.moveToRegister (.reg 3) 0xA0), (.operandPortWrite (.imm 4) .iaX), (.operandPortWrite (.imm 0x50) .vxTo),
     (.operandPortWrite (.reg 3) .lsH), (.nullMove 3 0x10 false 0)].all (ready base) = true ∧
    [(3, 0), (0x50, 0x8F), (0x90, 0x97), (3, 0xA0)].all (fun e =>
      (groupNames base.me.vrb base.me.prb e.2 (moveDest (.reg (BitVec.ofNat 8 e.1)) (BitVec.ofNat 8 e.2))).all
        fun n => !base.me.busyReg n) = true := by decide

/-- SlotsChargeOrFreeze: a counter that adds, one that would saturate and one that has. -/
theorem witness_charge :
    let at' (n : BitVec 56) (f : Bool) : State := base.onCore 0 fun k => k.onPctx fun q => { q with ec := n, satf := f }
    ((base.core 0).pctx.satf = false ∧ (base.core 0).pctx.ec.toNat + 1 < 2 ^ 56) ∧
    (((at' (BitVec.allOnes 56) false).core 0).pctx.satf = false ∧
      2 ^ 56 ≤ ((at' (BitVec.allOnes 56) false).core 0).pctx.ec.toNat + 1) ∧
    ((at' 0 true).core 0).pctx.satf = true := by decide

/-- A result in flight to register r. -/
def waiting (u : FUnit) (cls : ResClass) (r : Nat) : Flight :=
  {
    id := 900, unit := u, cls := cls, value := 77, dest := some (BitVec.ofNat 8 r), vrb := 0, prb := 0, flags := 0,
    due := some 0, lanes := 0, bad := none, va := 0, divider := false, inUi := false, acq := false }

/-- SlotsChargeOrFreeze: a register that awaits its load; a load while the core is its cluster's phase strand. -/
theorem witness_freeze :
    (match (base.onMe fun k => { k with fl := [waiting .ls .s 3] }).slotValue (.pass .ia .w64 (reg 3)) with
      | .freeze _ => true
      | _ => false) = true ∧
    (full.onCluster 0 fun k => { k with hedge := { k.hedge with active := true, strand := some 0 } }).phaseBars
      (.ld (.zx .d) (imm 0)) = true := by decide

/-- SlotsChargeOrFreeze: registers of each file that await a load, as destinations of a move and of results; a busy
divider, a pass, two copies and a tile in use. -/
theorem witness_busy :
    ([(Instr.add .ia .w64 (imm 1), 7, ResClass.s, Port.iaTo), (.add .ib .w32z (imm 1), 8, .s, .ibTo),
      (.vand (reg 0x51), 0x50, .v, .vxTo), (.hinfo .base (reg 0xA0), 10, .s, .lsTo), (.ecnt (imm 0), 13, .s, .syTo)].all fun e =>
      let s := full.onMe fun k => { k with fl := [waiting .ls e.2.2.1 e.2.1] }
      ready s e.1 && (s.me.port e.2.2.2 == some (BitVec.ofNat 512 e.2.1)) && (match destCount e.2.2.1 e.2.1 with
        | some n => (groupNames 0 0 e.2.1 n).any fun r => s.me.fl.any fun g => g.isLoad && g.names.contains r
        | none => false)) = true ∧
    (let s := full.onMe fun k => { k with fl := [waiting .ls .s 3] }
     ready s (.moveToRegister (.imm 1) 3) = true ∧ (groupNames 0 0 3 1).any s.me.busyReg = true) ∧
    (let s := (put (full.onMe fun k => { k with fl := [waiting .ls .s 9], loops := [⟨3, 1, 2, 32⟩] }) [])
     ready s (.lcnt (imm 0)) = true ∧ s.me.port .brTo = some 9 ∧ s.me.loops[0]?.isSome = true) ∧
    (let s := full.onMe fun k => { k with fl := [{ waiting .ia .s 3 with divider := true, due := none }] }
     ready s (.div .ia .sg64 (imm 1)) = true ∧ ready s (.rem .ia .un32 (imm 1)) = true ∧ dividerBusy s.me .ia = true) ∧
    (let y : Copy := ⟨false, true, 0, 0x200000, none, [], 0, none, 0, 0⟩
     let s := full.onMe fun k => { k with cp := { k.cp with active := some y, pending := some y } }
     ready s (.cpGo true (imm 0)) = true ∧ s.me.cp.active.isSome = true ∧ s.me.cp.pending.isSome = true) ∧
    energyClass (.mmac .p1 (reg 0xC1)) full.me = none ∧
    (let g : TileCfg := ⟨0, 0x07C37000, 0x07C37000, 0x07C37000, 0⟩
     energyClass (.mmac .p1 (reg 0xC1)) (full.onMx fun x => { x with cfg := some g }).me = some 12) := by decide

/-- The integer statements: every operation of both units, both ways for its result, on operands at hand; a divider
that is free. -/
theorem witness_integer :
    [IntUnit.ia, IntUnit.ib].all (fun u =>
      [Instr.add u .w64 (reg 3), .sub u .w32s (reg 3), .mul u .w32z (imm 255), .and u .w64 (imm 1), .or u .w64 (reg 3),
       .xor u .w64 (reg 3), .andn u .w64 (reg 3), .pass u .w32s (reg 3), .shl u .w64 (imm 64), .shr u .w32z (imm 32),
       .sar u .w32s (imm 31), .rol u .w64 (imm 63), .mulh u .sg64 (reg 3), .adds u .un32 (imm 255), .subs u .sg32 (reg 3),
       .min u .sg64 (reg 3), .max u .un64 (reg 3), .cmp u .leu (imm 5), .clz u .w64 (imm 0), .ctz u .w32z (imm 0),
       .popc u .w64 (imm 255), .bswap u .w32s (reg 3), .ext u .sg64 (imm 0), .div u .un64 (imm 0), .rem u .sg32 (imm 0)
       ].all fun i => placed full i .s (intTo u)) = true ∧
    full.me.port .iaX = some 5 ∧ full.me.port .ibX = some 5 ∧
    dividerBusy full.me .ia = false ∧ dividerBusy full.me .ib = false := by decide

/-- ResultTriggersChangeNothingElse: a commit that answers with its result in flight, from a state with no access
deferred and a counter that has room. -/
theorem witness_frame :
    let i : Instr := .pass .ia .w64 (imm 5)
    exec i full = .next (delivers (full.chargeSlot i) .ia .s (some 7) 5 0 1
      (some (.intResultDelivery 0 .ia))).flushDeferred ∧
    full.me.bs.deferred = [] ∧
    full.me.pctx.ec.toNat + full.weight ⟨slotClass i full.me % 16, Nat.mod_lt _ (by decide)⟩ < 2 ^ 56 :=
  ⟨rfl, by decide, by decide⟩

/-! Branches and loops. -/

/-- A segment of four bundles, bundle 1 running, with one loop whose body is bundle 1. -/
def looping : State := put (base.onMe fun k => { k with
  pc := ⟨32, 1⟩
  halves := #v[.full ⟨32, 64, 0, false, none, List.replicate 4 (probeBundle absentSlot)⟩, .empty]
  loops := [⟨3, 1, 2, 32⟩] }) [(.brX, 2), (.brTo, 9)]

/-- BranchesDecideTheNextBundle: absolute and segment targets, on either value of br.x; values that are no target. -/
theorem witness_branch :
    [Instr.jmp .abs (imm 64), .bz .abs (imm 64), .bnz .seg (imm 3), .jmp .seg (imm 4), .jmp .abs (imm 1)].all
      (ready looping) = true ∧ placed looping (.call .seg (imm 0)) .s .brTo = true ∧
    branchTarget looping.me .abs 64 = some ⟨64, 0⟩ ∧ branchTarget looping.me .seg 3 = some ⟨32, 3⟩ ∧
    branchTarget looping.me .abs (2 ^ 63 - 32) ≠ none ∧
    branchTarget looping.me .seg 4 = none ∧ branchTarget looping.me .abs 1 = none ∧
    branchTarget looping.me .abs (2 ^ 63) = none ∧ looping.me.port .brX = some 2 ∧ looping.me.bcnt ≤ 128 := by decide

/-- LoopStackOperations: counts 0 and above, on a stack with room. -/
theorem witness_loop :
    ([0, 1, 127].all fun n => ready looping (.loop (imm n)) && loopOperandsOk looping.me n 2 &&
      decide (looping.me.loops.length < 4)) = true ∧ looping.me.port .brX = some 2 ∧
    [Instr.lpop (imm 0), .lset (imm 127), .lset (imm 0)].all (ready looping) = true ∧
    placed looping (.lcnt (imm 4)) .s .brTo = true ∧ looping.me.ui.active = false ∧
    looping.me.loops[4 % 4]?.isSome = true := by decide

/-! Memory. -/

/-- MemoryReadsWhatWasWritten: memories in canonical form. -/
theorem witness_memory : Memory.wf [] = true ∧ Memory.wf (Memory.write [] 7 4 0x01000200) = true := by decide

/-- HandleChecksInOrder: each check fails on a use that passes those before it, and all pass. -/
theorem witness_handle :
    let h : Handle := BitVec.ofNat 128 memH
    let q : Handle := mkHandle 0 false false false 0 0 0x200000
    h.v = true ∧ h.ctx = (0 : CtxId).toNat ∧ h.invalid.v = false ∧ h.ctx ≠ (1 : CtxId).toNat ∧
    4 % 8 ≠ 0 ∧ h.size < h.size + 8 ∧ h.size % 8 = 0 ∧ (h.size - 8) + 8 ≤ h.size ∧
    checkHandle h 0 (h.size - 8) 8 .r = none ∧ checkHandle h 0 h.size 8 .r = some .hbound ∧
    checkHandle q 0 8 8 .w = some .priv := by decide

/-- The scratchpad's handle in ls.h. -/
def viaSpad : State := put full [(.lsH, spadH), (.lsX, 16)]

/-- LoadsAndStores, OrderingTriggers: every size at its first and last offset of either page. -/
theorem witness_loads :
    ([LdSz.zx .b, .bs, .zx .h, .hs, .zx .w, .ws, .zx .d].all fun z =>
      placed full (.ld z (imm 8)) .s .lsTo && placed viaSpad (.ld z (imm 8)) .s .lsTo &&
      decide (checkHandle (BitVec.ofNat 128 memH) 0 8 (ldBytes z) .r = none) &&
      decide (checkHandle (BitVec.ofNat 128 spadH) 0 8 (ldBytes z) .r = none)) = true ∧
    ([Sz.b, .h, .w, .d].all fun z =>
      ready full (.st z (reg 3)) && ready viaSpad (.st z (reg 3)) && placed full (.lda z .core (imm 8)) .s .lsTo &&
      placed viaSpad (.lda z .sys (imm 8)) .s .lsTo && ready full (.strl z .die (reg 3)) &&
      ready viaSpad (.strl z .core (reg 3)) &&
      decide (checkHandle (BitVec.ofNat 128 memH) 0 8 (szBytes z) .w = none) &&
      decide (checkHandle (BitVec.ofNat 128 spadH) 0 16 (szBytes z) .w = none)) = true ∧
    full.me.port .lsH = some (BitVec.ofNat 512 memH) ∧ viaSpad.me.port .lsH = some (BitVec.ofNat 512 spadH) ∧
    BitVec.ofNat 128 (BitVec.ofNat 512 memH).toNat = BitVec.ofNat 128 memH ∧
    Handle.isSpad (BitVec.ofNat 128 memH) = false ∧ Handle.isSpad (BitVec.ofNat 128 spadH) = true ∧
    slotsFull full 1 = false ∧ full.me.bs.deferred = [] ∧ full.me.fl.all (fun f => f.id != full.nextId) = true := by
  decide

theorem witness_ordering :
    [Instr.fence .acq .core (imm 0), .fence .rel .die (imm 0), .fence .full .sys (imm 0)].all (ready full) = true ∧
    full.me.pendingReport true = none ∧ full.me.pendingReport false = none ∧ full.reqsOf full.cur = [] ∧
    full.me.enginesQuiet = true ∧ (full.chargeSlot (.fence .rel .sys (imm 0))).carriedRace = none ∧
    (full.chargeSlot (.strl .d .sys (reg 3))).releaseRace false 0x200008 8 = none ∧
    viaSpad.reqsOf viaSpad.cur = [] ∧ viaSpad.me.enginesQuiet = true ∧
    full.me.bs.deferred = [] ∧ viaSpad.me.pendingReport true = none ∧ viaSpad.me.pendingReport false = none := by
  decide

/-! The slices. -/

/-- Operands of a slice operation: the memory handle, line 0 of the scratchpad or offset 128, an order word. -/
def sliceOps (mo : Nat) : State := put full [(.lsX, 128), (.lsY, 9), (.lsMo, mo)]

/-- SliceOperationsAreAsked: every atomic in 4 and 8 bytes with every order and scope; both forms of a compare. -/
theorem witness_slice :
    ([Ao.aadd, .aand, .aor, .axor, .amin, .amax, .axch, .acas].all fun op =>
      [0, 16, 15, 31].all fun mo => placed (sliceOps mo) (.atom op (reg 3)) .s .lsTo &&
        decide (slotsFull ((sliceOps mo).chargeSlot (.atom op (reg 3))) 1 = false)) = true ∧
    checkHandle (BitVec.ofNat 128 memH) 0 128 4 .a = none ∧ checkHandle (BitVec.ofNat 128 memH) 0 128 8 .a = none ∧
    (sliceOps 31).me.pendingReport true = none ∧
    ((sliceOps 31).chargeSlot (.atom .aadd (reg 3))).releaseRace true 0x200080 8 = none ∧
    [Instr.clrd (imm 0), .cms (imm 0x21), .lock (imm 64)].all (fun i => placed (sliceOps 0) i .s .lsTo) = true ∧
    ready (sliceOps 0) (.unlock (imm 64)) = true ∧ bits 0x21 3 0 ≠ 0 ∧ bit 0x21 8 = false ∧
    ((sliceOps 0).chargeSlot (.cms (imm 0x21))).carriedRace = none := by decide

/-- TranslationAndCacheControl: an address of the window and one outside any mapping; every field of a handle. -/
theorem witness_translation :
    (let s := regs base [(3, 2 ^ 56 - 2 ^ 19), (4, 2 ^ 56 - 2 ^ 19 - 1), (0xA0, memH)]
     let t := put s [(.lsTo, 0xA1), (.lsH, memH)]
     ready t (.trn (reg 3)) && (destOf t .h false .lsTo).isSome && ready t (.trn (reg 4)) &&
     decide (t.translateHere (2 ^ 56 - 2 ^ 19 - 1) = none) && (t.trnHandle (2 ^ 56 - 2 ^ 19)).isLeft &&
     [HField.base, .size, .perm, .valid].all (fun f => ready t (.hinfo f (reg 0xA0))) &&
     (destOf full .s false .lsTo).isSome && [Instr.pf true (imm 0), .pf false (imm 0), .wb (imm 0), .inv (imm 0)].all (ready t) &&
     decide (checkHandle (BitVec.ofNat 128 memH) 0 0 1 .none = none) && (t.reqsOf t.cur).isEmpty) = true := by decide

/-- A line at home in its slice, and a request of core 0 for its bytes 8 to 15. -/
def served (k : ReqKind) : State × Req :=
  let r : Req := {
    id := 700, core := 0, uid := 1, ctx := 0, kind := k, pa := 0x200008, n := 8, data := 3, fid := 0,
    vc := [], held := false, due := 0, served := false, value := 0, bad := none, va := 0x200008, start := 0, lane := false, psz := 3, fence := [] }
  (ram { base with slines := [(lineOf 0x200008, some ⟨0, false, none, [], 0, none, false⟩)], reqs := [r] }
    [(0x200008, 8, 0xFFFFFFFFFFFFFFFE)], r)

/-- AtomicReadsThenWritesItsLine, RequestsAreServedOnce: a plain line, an atomic, a load and a store that reach it, and
requests that are not to be served. -/
theorem witness_served :
    let a := served (.atom .acas 5 false 0 .core)
    let l := served (.load true)
    let w := served .store
    a.1.req 700 = some a.2 ∧ l.1.req 700 = some l.2 ∧ w.2.kind = .store ∧ w.1.granules = [] ∧
    (w.1.core 0).l1Victim (lineOf 0x200008) = none ∧ a.1.req 701 = none ∧ a.1.wakeHomes [0x200008] = none ∧
    (a.1.core 0).l1Find (lineOf 0x200008) = none ∧ (l.1.core 0).l1Victim (lineOf 0x200008) = none ∧
    (match a.1.sline (lineOf 0x200008) with | some l => l.marker == none | none => false) = true ∧
    Tbl.get false a.1.poison (lineOf 0x200008) = false ∧ a.1.granules = [] ∧
    (a.1.core 0).run.map (·.relFence) = some [] ∧ a.2.kind.sliceOp = true ∧ l.2.kind.sliceOp = false ∧
    0x200008 % 128 + 8 ≤ 128 ∧ (a.1.core 0).imagesDeferred 700 = false ∧ (l.1.core 0).loadDeferred 0 = false := by decide

/-- ResultsLandInRegisterAndLatch: one result due, of each unit; a served load and a lane. -/
theorem witness_results :
    ([FUnit.ia, .ib, .vx].all fun u => let s := base.onMe fun k => { k with fl := [waiting u .s 3] }
      (s.core 0).fl == [waiting u .s 3] && decide (nameSpace 3 = .g) && decide ((waiting u .s 3).inUi = s.me.ui.active)) = true ∧
    intUnit .ia = .ia ∧ (waiting .ib .s 3).due = some 0 ∧
    (let r := { (served (.load false)).2 with served := true }
     let q := { r with kind := .lane 15 }
     ({ base with reqs := [r] }.req 700 = some r) ∧ ({ base with reqs := [q] }.req 700 = some q)) := by decide

/-! The vector unit. -/

/-- Vectors at hand: v1 = 64 bytes of words 0, 64, 128, ... for indices; a predicate; format E4M3 in vx.f. -/
def vec : State := regs (put full [(.vxX, 0x3F800000_7FC00000_80000000_00000001), (.vxY, 2 ^ 511), (.vxS, 0),
  (.vxP, 0xAAAA), (.vxF, 0x07C37000), (.vxTo, 0x52), (.vxH, memH)])
  [(0x51, (List.range 16).foldl (fun a j => a + 4 * (15 - j) * 2 ^ (32 * j)) 0), (0x92, 0x5555), (3, 64)]

/-- A vector trigger is ready and its V result has a place. -/
def vready (s : State) (i : Instr) : Bool := placed s i .v .vxTo

/-- VectorArithmeticResults, VectorFusedAndFunctionResults, VectorBitwiseResults, VectorLaneMovementResults. -/
theorem witness_vector :
    ([Vt.fl .f32, .fl .bf16, .fl .f16, .int, .uint].all fun t =>
      [Instr.vadd t (reg 0x51), .vsub t (reg 0x51), .vmul t (reg 0x51), .vmin t (reg 0x51), .vmax t (reg 0x51)].all
        (vready vec)) = true ∧
    ([Ft.f32, .bf16, .f16].all fun t =>
      [Instr.vfma t (reg 0x51), .vfms t (reg 0x51), .vfnma t (reg 0x51), .vabs (.fl t) (reg 0x51), .vneg (.fl t) (reg 0x51)
       ].all (vready vec)) = true ∧
    [Instr.vabs .int (reg 0x51), .vneg .int (reg 0x51), .vrcp (reg 0x51), .vrsqrt (reg 0x51), .vexp2 (reg 0x51),
     .vlog2 (reg 0x51), .vsqrt (reg 0x51), .vand (reg 0x51), .vor (reg 0x51), .vxor (reg 0x51), .vshl (reg 0x51),
     .vshr true (reg 0x51), .vshr false (reg 0x51), .vbcast true (reg 3), .vbcast false (reg 3), .vperm (reg 0x51),
     .vrot (imm 15), .vins (imm 0), .vsel true (reg 0x51), .vsel false (reg 0x51)].all (vready vec) = true ∧
    [Port.vxX, .vxY, .vxS, .vxP].all (fun p => (vec.me.port p).isSome) = true := by decide

/-- VectorCompareResults, VplCombinesPredicates and the scalar result of vext: results of the other classes. -/
theorem witness_predicates :
    let s := put vec [(.vxTo, 0x91)]
    ([Vt.fl .f32, .int, .uint].all fun t =>
      [Instr.vcmpeq t (reg 0x51), .vcmplt t (reg 0x51), .vcmple t (reg 0x51)].all (placed s · .p .vxTo)) = true ∧
    (let q := put vec [(.vxTo, 0x92)]
     [Instr.vcmpeq (.fl .f16) (reg 0x51), .vcmplt (.fl .bf16) (reg 0x51)].all (placed q · .p2 .vxTo)) = true ∧
    placed s (.vcmpun .f32 (reg 0x51)) .p .vxTo = true ∧
    ([Pl.and, .or, .xor, .andn, .not].all fun op => ready s (.vpl op (reg 0x92))) = true ∧
    placed (put vec [(.vxTo, 9)]) (.vext true (imm 15)) .s .vxTo = true ∧
    (ftVal .f32 0x7FC00000).isNan = true ∧ ftWidth .f16 = 16 := by decide

/-- VectorScratchpadAccesses: the last line, one past it and one that is not a line's start. -/
theorem witness_scratchpad :
    let s := regs vec [(4, 0x7FFC0), (5, 0x80000), (6, 0x80001)]
    [Instr.vld (reg 4), .vld (reg 5), .vld (reg 6)].all (ready s) = true ∧ vready s (.vld (reg 4)) = true ∧
    ([0x7FFC0, 0x80000, 1].all fun a => ready (put s [(.vxS, a)]) (.vst (reg 0x51))) = true ∧ s.me.bs.deferred = [] := by
  decide

/-- VectorConversionsAndReductions: every conversion; both nibble and byte formats at the last part; every lane type. -/
theorem witness_conversions :
    ([Cv.f2bf, .f2h, .bf2f, .h2f, .bf2h, .h2bf, .f2i, .f2it, .f2ui, .f2uit, .i2f, .ui2f].all fun c =>
      vready vec (.vcvt c (reg 0x51))) = true ∧
    ([true, false].all fun ks => vready (put vec [(.vxS, 0x1FF), (.vxF, 0x07C37000)]) (.vwiden ks (reg 0x51)) &&
      vready (put vec [(.vxS, 0x3FF), (.vxF, 0x07C37000)]) (.vnarrow ks (reg 0x51)) &&
      ready (put vec [(.vxF, 1)]) (.vwiden ks (reg 0x51))) = true ∧
    Fmt.consistent 0x07C37000 = true ∧ Fmt.consistent 1 = false ∧
    ([Vt.fl .f32, .fl .bf16, .fl .f16, .int, .uint].all fun t => let s := put vec [(.vxTo, 9)]
      [Instr.vrsum t (reg 0x51), .vrmax t (reg 0x51), .vrmin t (reg 0x51)].all (placed s · .s .vxTo)) = true := by decide

/-- VectorGathersAndScatters: sixteen good words; a bad lane after good ones; both pages, with and without the engine. -/
theorem witness_gather :
    let s := regs vec [(0x54, 6 * 2 ^ 96 + 4), (0x55, 0x80000 * 2 ^ 480)]
    let e := s.onMe fun k => k.onPctx fun q => { q with gmode := true }
    let p := put s [(.vxH, spadH)]
    [s, e, p].all (fun s => vready s (.vgth true (reg 0x51)) && ready s (.vsct true (reg 0x51)) &&
      vready s (.vgth false (reg 0x51)) && ready s (.vsct false (reg 0x51)) && decide (s.me.bs.deferred = []) &&
      !slotsFull s 16 && decide (s.me.ga.ops.length < 5) && decide (s.reqsOf s.cur = [])) = true ∧
    e.me.pctx.gmode = true ∧ s.me.pctx.gmode = false ∧
    (List.range 16).all (fun j => lane 32 (slotVal s (.vgth false (reg 0x51))) j % 4 == 0) = true ∧
    laneCheck (slotVal s (.vgth true (reg 0x51))) (fun o => checkHandle (BitVec.ofNat 128 memH) 0 o 4 .r) = none ∧
    laneCheck (slotVal s (.vgth true (reg 0x51))) (fun o => checkHandle (BitVec.ofNat 128 spadH) 0 o 4 .w) = none ∧
    lane 32 (slotVal s (.vgth false (reg 0x54))) 3 % 4 ≠ 0 ∧ lane 32 (slotVal s (.vgth false (reg 0x55))) 15 = 0x80000 := by
  decide

/-! Queues, pipes, rings and the Hedgerow. -/

/-- A stream of context 0 with a ring of two slots: 0 PROD, and the next, in the given state. -/
def ring (st : SlotSt) : Stream := {
  ctx := 0, origin := 0, period := 27, dloff := 0, climb := 1, rungs := [], rung := 0, ontime := 0, ladder := [], fseq := 0,
  link := 0, obase := 0, slotsz := 4096,
  slots := [⟨.prod, 1, 0, 0, 0, [], 0, false, []⟩, ⟨st, 2, 0, 0, 0, [], 0, false, [(4, 9)]⟩], ev := false, enc := 0, codec := 0,
  depth := 0, wid := 64, hgt := 64, gop := 1, coded := 0, acqc := 1, donec := 0, relc := 0, nseq := 2, waiters := [],
  vw := 0, cap := 0, win := [], appc := 0, tdrop := 0, ferr := 0, w3seq := 0, closing := none, closeFrom := none, vc := [] }

/-- Core 0 with stream 5 at hand. -/
def withRing (st : SlotSt) : State := { full with streams := [(5, some (ring st))] }

/-- A pipe from core 0 to itself with n entries, the first m of them readable. -/
def pipe (n m : Nat) (ended : Bool) : Pipe := {
  gang := 1, prod := 0, cons := 0, entries := (List.range n).map fun i => (⟨BitVec.ofNat 512 i, 0, false⟩, decide (i < m)),
  seq := 3, freed := [], prodEnded := false, consEnded := ended }

/-- Core 0 with the pipe bound to w4 and q4. -/
def withPipe (p : Pipe) : State := (full.onCluster 0 fun k => k.setPipe 2 (some p)).onMe fun k =>
  { k with outPipe := k.outPipe.set 0 (some 2), inPipe := k.inPipe.set 0 (some 2) }

/-- QueuesAndPipes: a pipe with room, full, and with its consumer ended; ports unbound; the encoder; heads and rooms. -/
theorem witness_queues :
    ([pipe 1 1 false, pipe 64 3 false, pipe 0 0 true].all fun p => let s := withPipe p
      ready s (.push (.reg 0x51) 4) && decide ((s.chargeSlot (.push (.reg 0x51) 4)).outPipeOf s.cur 4 = some (2, p)) &&
      placed s (.qlvl false (imm 4)) .s .qxTo && placed s (.qlvl true (imm 4)) .s .qxTo &&
      ready s (.qwait false (imm 4)) && ready s (.qwait true (imm 4)) && placed s (.pseq (imm 4)) .s .qxTo &&
      decide (s.headCount 4 = some p.readable.length) && decide (s.portRoom 4 = some (p.room 0))) = true ∧
    (pipe 1 1 false).room 0 = 63 ∧ (pipe 64 3 false).room 0 = 0 ∧ (pipe 0 0 true).readable.length = 0 ∧
    (match (withPipe (pipe 1 1 false)).head 4 with | .entry e n => e.seq == 0 && n == 1 | _ => false) = true ∧
    (pipe 3 1 false).entries = [(⟨0, 0, false⟩, true)] ++ (⟨1, 0, false⟩, false) :: [(⟨2, 0, false⟩, false)] ∧
    [Instr.push (.reg 0x51) 0, .push (.reg 0x51) 5].all (ready full) = true ∧ full.outPipeOf full.cur 5 = none ∧
    (let s := (withRing .free).onMe fun k => { k with w3 := some 5 }
     ready s (.push (.reg 0x51) 3) && decide (s.w3Enc s.cur = some (5, 0)) &&
       decide ((s.enc 0).queue.length < 64)) = true := by decide

/-- RingSlotsAreClaimedAndReleased: a free next slot and none, with and without SUSP; a READY slot and its RSEQ. -/
theorem witness_rings :
    ([SlotSt.free, .ready].all fun st => let s := withRing st
      placed s (.ringacq (imm 5)) .s .qxTo && placed s (.ringst .free (imm 5)) .s .qxTo &&
      placed (regs s [(3, 0x105)]) (.ringacq (reg 3)) .s .qxTo && aloneInBundle s && s.me.loops.isEmpty &&
      decide (s.me.run.bind (·.gang) = none) && !s.me.ui.active) = true ∧
    (ring .free).slotSt (ring .free).nextSlot = .free ∧ (ring .ready).slotSt (ring .ready).nextSlot = .ready ∧
    (let v := 5 + 256 * 1 + 2 ^ 32 * 2; let s := regs (withRing .ready) [(3, v)]
     ready s (.ringrel (reg 3)) && decide ((ring .ready).releasable v = some 1) && !s.releaseBusy &&
       decide (s.me.pendingReport true = none) && decide (bits v 7 6 = 0 ∧ bits v 31 12 = 0)) = true ∧
    (withRing .free).stream 6 = none ∧ bits 64 7 6 ≠ 0 := by decide

/-- Core 0 is the phase strand of cluster 0, in an active phase with cluster 1, its neighbour. -/
def phase : State := (full.onHedge 0 fun h => { h with strand := some 0, active := true, mask := 3 }).onHedge 1 fun h =>
  { h with strand := some 8, active := true, mask := 3, hend := true }

/-- HedgerowWordsFollowSelections: a word sent, a selection with and without a forward, words that arrive to be sent on,
to be put in a queue and to find it full. -/
theorem witness_hedgerow :
    ready (put phase [(.qxX, 1)]) (.xmit .e (reg 0x51)) = true ∧ phase.inPhase = true ∧ full.inPhase = false ∧
    phase.phaseNeighbour .e = some 1 ∧ ready full (.xmit .e (reg 0x51)) = true ∧
    (phase.cluster 0).hedge.outUsed.contains (phase.me.time, Dir.e) = false ∧
    ([0, 15, 24, 31].all fun n => ready (put phase [(.qxX, 1)]) (.xsel .w (imm n))) = true ∧
    (Machine.dirOf 1 = .e) ∧ (phase.phaseNeighbour (Machine.dirOf 1)).isSome = true ∧
    (let s := phase.onHedge 0 fun h => { h with arriving := [(0, .w, 9)], sel := h.sel.set 3 ⟨some .e, none⟩ }
     (s.cluster 0).hedge.arriving = [(0, .w, 9)] ∧ (s.cluster 0).hedge.sel[dirNum .w]? = some ⟨some .e, none⟩) ∧
    (let s := phase.onHedge 0 fun h => { h with arriving := [(0, .n, 9)], sel := h.sel.set 0 ⟨none, some 7⟩ }
     (s.cluster 0).hedge.sel[dirNum .n]? = some ⟨none, some 7⟩ ∧ (s.core (coreOf 0 7)).q3.length = 0 ∧
     neighbour 0 .e = some 1) := by decide

/-- TransferPhasesStartAndEnd: before the barrier, at it, in the phase and at its end. -/
theorem witness_phase :
    (let s := regs full [(3, 3)]
     ready s (.hbar (reg 3)) && (3 : W64).getLsbD (clusterOf s.cur).toNat && decide ((s.cluster 0).hedge.strand = none) &&
       decide (s.me.pctx.divCtl = 3)) = true ∧
    (let s := (phase.onHedge 0 fun h => { h with active := false }).onHedge 1 fun h => { h with active := false }
     (setOf 3).all (s.barReady 3) = true ∧ (s.cluster 0).hedge.mask = 3) ∧
    ready phase (.hend (imm 0)) = true ∧ (phase.cluster 0).hedge.drops = 0 ∧
    (phase.onHedge 0 fun h => { h with hend := true }).phaseOver 3 = true ∧ (phase.cluster 0).hedge.active = true := by
  decide

/-! The matrix engine. -/

/-- Operands of the engine: tile m3, accumulator a1, stride 32, good formats, a configuration. -/
def matrix (spad : Bool) : State := (regs (put full [(.mxH, if spad then spadH else memH), (.mxX, 64), (.mxY, 32),
    (.mxZ, 0), (.mxA, 0xB3), (.mxB, 0xB8), (.mxCa, 0), (.mxCb, 0)]) [(3, 0x012)]).onMe fun k =>
  { k with
    rf := { k.rf with f := Vector.replicate 16 0x07C37000 }
    mx := { k.mx with cfg := some ⟨0, 0x07C37000, 0x07C37000, 0x07C37000, pmaxOf 0x07C37000 0x07C37000⟩ } }

/-- The ports and checks of a transfer hold. -/
def transferOk (s : State) (t rb : Nat) (load : Bool) : Bool :=
  decide (s.me.mx.err = none) && decide (s.me.mx.rowBytes t = some rb) &&
  decide (transferCheck s.me (BitVec.ofNat 128 ((s.me.port .mxH).getD 0).toNat) rb 64 32 0 load = none) &&
  (s.me.port .mxX == some 64) && (s.me.port .mxY == some 32) && (s.me.port .mxZ == some 0) && !swzBad 0 && sx 32 64 == 32

/-- TileTransfersStart: loads and stores through both handles, a tile that an operation reads, a failed transfer. -/
theorem witness_transfers :
    ([true, false].all fun b => let s := matrix b
      ready s (.mld false (reg 0xB3)) && ready s (.mld true (reg 0xB3)) && ready s (.mst (reg 0xB3)) &&
      (match s.me.mx.rowBytes 3 with | some rb => transferOk s 3 rb true && transferOk s 3 rb false | none => false) &&
      !s.me.mx.hazard .xfer [] [tileOf 0xB3] && !s.me.mx.hazard .xfer [tileOf 0xB3] [] &&
      !(s.chargeSlot (.mld false (reg 0xB3))).writesPending && ((s.chargeSlot (.mld false (reg 0xB3))).settle false).isSome &&
      ((s.chargeSlot (.mst (reg 0xB3))).settle true).isSome) = true ∧
    (let o : ArrayOp := ⟨1, .mmac 1 3 8 0 0 ⟨0, 0, 0, 0, 0⟩, 9, none⟩
     ((matrix true).onMx fun x => { x with arr := [o] }).me.mx.hazard .xfer [] [tileOf 0xB3] = true) ∧
    ((matrix true).onMx fun x => { x with err := some (.eccunc, 7) }).me.mx.err = some (.eccunc, 7) := by decide

/-- MatrixOperationsStart: engines at rest, with the configuration and the scale tiles at hand. -/
theorem witness_matrix :
    let s := matrix true
    [Instr.mmac .p1 (reg 0xC1), .mmac .p16 (reg 0xC3), .mzero (reg 0xC1), .mhad (reg 0xC0), .mdrain false (reg 0xC1),
     .mdrain true (reg 0xC1), .mcfg (imm 0x12), .mldc (reg 0xC7), .mwait (reg 0xC1)].all (ready s) = true ∧
    tileOf 0xB3 = 3 ∧ tileOf 0xB8 = 8 ∧ nameIndex 0xC1 = 1 ∧
    s.me.mx.hazard .arr [3, 8, 17] [17] = false ∧ s.me.mx.hazard .drn [17] [] = false ∧ s.me.mx.cfg.isSome = true ∧
    s.me.mx.xfer.isEmpty = true ∧ s.me.mx.arr.isEmpty = true ∧ s.me.mx.drn.isEmpty = true ∧
    s.me.q0.length + s.me.resv0 ≤ 32 ∧ Fmt.consistent (s.me.fRead 2) = true := by decide

/-- MatrixOperationsRetire: a load, a stopped load, an array operation, a drain at its first row and past its last, and
a scale load, each due. -/
theorem witness_retire :
    let o : Transfer := ⟨true, 15, Vector.replicate 32 1, BitVec.ofNat 128 spadH, 0, 32, 8, 0, 32, 0, 15, [], none, none, []⟩
    let g : TileCfg := ⟨0, 0x07C37000, 0x07C37000, 0x07C37000, 0⟩
    let d : Drain := ⟨1, false, g, 0, 0, 36, 0, 3, 3⟩
    let s := base.onMx fun x => { x with clk := 4, xfer := [o], arr := [⟨1, .mzero, 0, none⟩], drn := [d], mldc := [(7, 5, 0)] }
    (s.core 0).mx.xfer = [o] ∧ o.ready ≤ s.now ∧ o.out = [] ∧ 32 ≤ o.next ∧ (s.core 0).mx.xferFree ≤ s.now ∧
    Handle.isSpad o.handle = true ∧ Handle.v (BitVec.ofNat 128 memH) = true ∧ s.noSlots 0 1 = false ∧
    { o with next := 31, out := [(31, 9, 5)] }.out = [(31, 9, 5)] ∧ (s.core 0).mx.arr = [⟨1, .mzero, 0, none⟩] ∧ (s.core 0).mx.drn = [d] ∧
    (s.core 0).mx.mldc = [((7 : Fin 8).val, 5, 0)] ∧
    { o with stop := some (31, .eccunc) }.stop = some (31, .eccunc) ∧
    d.rowAt 0 ≤ (s.core 0).mx.clk ∧ (s.core 0).mx.clk < d.rowAt 1 ∧ { d with next := 32 }.retire = 36 := by decide

/-! The Sedge engine, the copy and gather engines. -/

/-- Operands of the engines through the memory handle. -/
def engines : State := regs (put full [(.sgH, memH), (.sgX, 16), (.sgXb, 0), (.cpH, memH), (.cpRec, 0x200000), (.cpSp, 0),
  (.cpZ, 0), (.gaH, memH), (.gaIx, 0), (.gaSp, 1024)]) [(3, 32), (4, 96)]

/-- A pass at its first symbol. -/
def pass0 : Pass := {
  handle := BitVec.ofNat 128 memH, off := 0, xb := 0, lim := 31, scl := 0, hdrRead := false, tfmt := 0, nsym := 1, pos := 0,
  idx := 0, opened := none, dep := 0, acc := 0, row := 0, rowUsed := false, rules := [], flags := 0, rows := 0, since := 0,
  pend := false, asked := 1, flying := [(0, 0, 0)], lines := [], saved := [(0, 5, none, true)], pushes := [(⟨7, 0, false⟩, 0)], lastPush := 0, issueFrom := none,
  finish := none, fail := none, stalled := false, skip := false }

/-- SedgePassesRun: values in and out of range, a pass with its operands, a pass running, arriving, pushing, ended and
failing, a rule open and defined. -/
theorem witness_sedge :
    let s := engines
    let p := s.onSg fun g => { g with pass := some pass0 }
    ([Instr.sgLim (imm 0), .sgLim (imm 31), .sgLim (reg 3), .sgScl (imm 1), .sgPass (imm 3), .sgWait (imm 0)].all (ready s) = true ∧
    ([SgField.state, .syms, .rows].all fun f => ready s (.sgStat f (imm 0)) && ready s (.sgStat f ⟨.imm 0, true⟩)) = true ∧
    (slotVal s (.sgLim (imm 0)) = 0 ∧ slotVal s (.sgLim (imm 31)) = 31 ∧ slotVal s (.sgLim (reg 3)) = 32) ∧
    s.me.sg.err = none ∧ s.me.sg.pass = none ∧ ((s.chargeSlot (.sgPass (imm 3))).settle false).isSome = true ∧
    16 + 16 ≤ Handle.size (BitVec.ofNat 128 memH) ∧ Handle.pr (BitVec.ofNat 128 memH) = true ∧
    ready p (.sgWait (imm 0)) = true ∧ ready p (.sgPass (imm 3)) = true ∧ p.me.sg.pass.isSome = true ∧ (p.core 0).sg.pass = some pass0 ∧ pass0.stalled = false ∧
    pass0.flying = [(0, 0, 0)] ∧ (p.core 0).q2.length < 64 ∧ (p.core 0).phase = .run ∧
    { pass0 with pushes := [], fail := some (.ruledepth, 0) }.fail.isSome = true ∧
    Tbl.get none { pass0 with rules := [(9, some ⟨1, 2⟩)] }.rules 9 = some ⟨1, 2⟩) ∧
    ∃ p : Pass, p.ended 1 = true := by
  refine ⟨?_, { pass0 with finish := some 0, pushes := [] }, by decide⟩
  and_intros <;> decide

/-- CopiesAndGathersRun: both directions with and without the interrupt, lines that reply, fail and are done; gathers of
the least and most lanes. -/
theorem witness_engines :
    let s := engines
    let l : CopyLine := ⟨16384, [(0, 8, 5)], none, some 0, 0⟩
    let y : Copy := ⟨false, true, BitVec.ofNat 128 memH, 0x200000, none, [l], 0, none, 0, 0⟩
    let g : GatherRow := ⟨none, some 1024, true, [(0, 4, 9)], [⟨0x200000, true, 0, some 0⟩]⟩
    let c := s.onMe fun k => { k with cp := { k.cp with active := some y }, ga := { k.ga with ops := [⟨none, 0, [g], none⟩] } }
    [Instr.cpGo false (imm 0), .cpGo true (imm 0), .cpGo false (imm 1), .cpFence (imm 0), .cpStat false ⟨.imm 0, true⟩,
     .cpStat true (imm 0), .cpUiv (reg 3), .cpUiv (imm 1), .gaGth (imm 1), .gaSct (imm 127), .gaStat true ⟨.imm 0, true⟩,
     .gaStat false (imm 0), .gaMode (imm 1)].all (ready s) = true ∧
    (s.onMe fun k => { k with ui := { k.ui with target := some ⟨32, 0⟩ } }).me.ui.target.isSome = true ∧
    s.me.cp.err = none ∧ s.me.cp.pending = none ∧ swzBad 0 = false ∧ (s.chargeSlot (.cpGo true (imm 0))).writesPending = false ∧
    ((s.chargeSlot (.cpGo true (imm 0))).settle true).isSome = true ∧ ((s.chargeSlot (.gaSct (imm 127))).settle true).isSome = true ∧ s.me.gatherFull = false ∧ 64 * 4096 + 1024 ≤ 0x80000 ∧
    (c.core 0).cp.active = some y ∧ y.lines = [l] ∧ l.due = some 0 ∧ 0 ≤ c.now ∧ l.err = none ∧
    { l with err := some .eccunc }.err = some .eccunc ∧ { l with due := none }.due = none ∧ y.next ≤ c.now ∧
    { y with lines := [] }.lines = [] ∧ c.noSlots 0 1 = false ∧ (c.core 0).cp.pending = none ∧
    (c.core 0).ga.ops = [⟨none, 0, [g], none⟩] ∧ g.ix = none ∧ (g.lanes.all fun a => a.due == some 0) = true ∧ g.load = true ∧ g.sp = some 1024 ∧
    (c.core 0).slot3Used c.now 1024 = false := by decide

/-- R176: a store on its way to the L1 is made before a copy's accesses, and the copy goes on; one that is held is
waited for. -/
theorem test_copy_follows_store :
    let q : Req := ⟨7, 0, 1, 0, .store, 16384, 1, 9, 0, [], false, 0, false, 50, false, 0, none, 0x200000, 4, []⟩
    let w (q : Req) : State := { engines with reqs := [q] }
    (match (w q).settle false with
      | some s => (s.readThrough (s.who 0) 16384 1).2.1 == 9 && (s.reqs.map fun r => (r.id, r.served)) == [(7, true)]
      | none => false) = true ∧
    ((w { q with held := true }).settle false).isNone = true := by decide

/-- UserInterruptsAreTakenAndLeft: one pending and taken; one to leave; the end of its bundle. -/
theorem witness_interrupt :
    let t : Target := ⟨64, 0⟩
    let s := full.onMe fun k => { k with ui := { k.ui with target := some t, pending := 1 } }
    let u := full.onMe fun k => { k with ui := { k.ui with active := true, ret := t } }
    let e := u.onMe fun k => { k with bs := { k.bs with uiret := true } }
    (s.core 0).ui.target = some t ∧ 0 < (s.core 0).ui.pending ∧ (s.core 0).ui.active = false ∧ (s.core 0).masked = false ∧
    ready u (.uiret (imm 0)) = true ∧ ready full (.uiret (imm 0)) = true ∧ u.me.ui.active = true ∧ full.me.ui.active = false ∧
    e.me.bs.uiret = true ∧ e.me.bs.waits = [] ∧ hdrPop e.me.bs.hdr = 0 ∧ hdrKind e.me.bs.hdr = 0 := by decide

/-! The strand unit, Bracken and the key-value window. -/

/-- Context 0 with a mapping of the page at 2 MiB and a template 0 of one node whose argument 2 is that of R120. -/
def strands : State :=
  (ram (regs (put full [(.tkX, 0x200000), (.tkTo, 9)])
      [(3, 0x200000), (0x51, 0)])
    [(0x1000, 8, 2 ^ 63 + 2 ^ 62 + 2 ^ 60 + 2 ^ 59 + 2 ^ 58 + 0x200000), (0x1008, 8, 0x200000),
     (0x2000, 8, 0x3000), (0x2008, 8, 1),
     (0x3000, 8, 3), (0x3030, 8, 0x0000004000000000), (0x3038, 8, 0x000008B000400001)]).onCtx 0 fun x =>
    { x with mapb := 0x1000, mapn := 1, tdir := 0x2000 }

/-- R120's example: argument 2 of instance 37 is at 0x0000_0040_0002_2800. -/
theorem test_argument : argAddr (strands.nodeEntry 0 0 0) 37 2 = some 0x0000004000022800 ∧
    argAddr (strands.nodeEntry 0 0 0) 37 3 = none ∧ argAddr (strands.nodeEntry 0 0 0) 37 6 = none := by decide

/-- StrandUnitTriggers: a record of a node to a mapped address; arguments that are and are not; counters; a stream; a
result due. -/
theorem witness_strands :
    let s := strands
    ready s (.post (reg 0x51)) = true ∧ s.me.port .tkX = some 0x200000 ∧ (Record.ofNat 0).w1.toNat % 16 = 0 ∧
    s.me.ctx = 0 ∧ (Record.ofNat 0).node < s.ncnt 0 0 ∧ (s.translateHere 0x200000).isSome = true ∧
    placed s (.arga (imm 2)) .s .tkTo = true ∧ placed s (.arga (imm 3)) .s .tkTo = true ∧
    2 < neNarg (s.nodeEntry 0 0 0) ∧ getBytes (s.nodeEntry 0 0 0) (16 + 16 * 2) 8 < 2 ^ 56 ∧
    ready (put s [(.tkX, 16383)]) (.jinit (imm 2)) = true ∧ s.joinForeign 16383 s.me.ctx = false ∧
    ready s (.jdec (imm 2)) = true ∧ (s.setJoin 2 { s.join 2 with value := 2 }).join 2 ≠ s.join 2 ∧
    placed { s with streams := [(5, some (ring .free))] } (.strd .rung (imm 5)) .s .tkTo = true ∧
    (waiting .tk .s 3).acq = false ∧ (waiting .tk .s 3).due = some 0 := by decide

/-- A tree of context 0, and a window of two positions holding one page of count 1 beside a free page on its stack. -/
def caches (n : Nat) : State :=
  let w : Stream := { ring .free with slots := [], vw := 0x40000000, cap := 4, win := [⟨0, 0x80000, n = 1⟩] }
  ({ ram strands [(0x5000, 8, 0x100000)] with
    streams := [(5, some w)]
    trees := [(1, some ⟨0, 4, 1000, 8, 0x400000, 0x500000, 0x600000, 0x700000, 0x200000, []⟩)]
    kvCount := [(1, 1), (3, 7)] }).onCtx 0 fun x => { x with kpb := 0x5000, kpcap := 4, kpfree := 1 }

/-- BrackenAndWindowTriggers: a hash of each tree field's end, descriptors at a mapped line, operations on a node, a window
that is entered, joined by a page in use, pinned and let go. -/
theorem witness_caches :
    let s := caches 0
    placed (regs (put s [(.tkX, 2 ^ 61 - 2)]) [(3, 2 ^ 32 + 2 ^ 32 - 1)]) (.hashu (reg 3)) .s .tkTo = true ∧
    (s.tree 1).isSome = true ∧ (2 ^ 32 + 2 ^ 32 - 1) / 2 ^ 32 = 1 ∧
    [Instr.snap (reg 3), .snfind (reg 3)].all (fun i => placed s i .s .tkTo) = true ∧
    (s.translateHere 0x200000).isSome = true ∧ s.me.enginesQuiet = true ∧ s.me.pendingReport false = none ∧
    [0, 1, 7].all (fun i => !s.nodePoisoned ⟨0, 4, 1000, 8, 0x400000, 0x500000, 0x600000, 0x700000, 0x200000, []⟩ i) ∧
    (let t := regs s [(4, 2 ^ 20), (6, 2 ^ 20 + 2 ^ 20 - 1)]
     [Instr.snpin (reg 4), .snrel (reg 6), .snstat .coll (imm 1)].all (fun i => placed t i .s .tkTo)) = true ∧
    ready s (.kvadv (imm 5)) = true ∧ ready (put s [(.tkX, 3 * 2 ^ 19)]) (.kvadv (imm 69)) = true ∧ s.releaseBusy = false ∧
    s.pageCount (3 * 2 ^ 19) = 7 ∧ s.topPage 0 = some 0x100000 ∧
    (let t := regs s [(4, 5)]
     ready t (.kvpin (reg 4)) && ready (regs (caches 1) [(4, 5 + 2 ^ 16)]) (.kvpin (reg 4))) = true := by decide

/-- StrandsLeaveTheirCore: each way to leave, and what has nothing to wait for. -/
theorem witness_leaving :
    let s := full
    [Instr.endStrand (imm 0), .yield (imm 0), .wait (imm 3)].all (ready s) = true ∧ s.me.repliesOut = false ∧
    s.me.pendingReport true = none ∧ s.me.run.bind (·.gang) = none ∧ s.me.loops.length = 0 ∧
    s.joinForeign 3 s.me.ctx = false ∧ s.tablePending = false ∧
    ([Leave.endStrand, .yield, .wait 3].all fun l =>
      let e := (s.onMe fun k => { k with
        bs := { k.bs with leave := some l, branch := some ⟨256, 0⟩ } })
      let u := e.onMe fun k => { k with phase := .leaving l }
      u.strandQuiet s.cur && u.carriedRace.isNone && decide (e.me.endPlan.1.seg = 256) && e.me.bs.waits.isEmpty &&
        !e.me.switchDue) = true := by decide

/-! The system unit, traps and the end of a bundle. -/

/-- A capsule of context 0. -/
def caps : Capsule := {
  baddr := ⟨64, 3⟩, faddr := 5, cause := .align, resume := 2, begun := true, sup := true, inui := false, popd := 0, kind := 0,
  ctx := 0, ops := Vector.replicate 8 (some 7), lat := Latches.reset, ports := Ports.reset, loops := [⟨3, 1, 2, 64⟩], vrb := 5,
  prb := 6 }

/-- A handler runs, its capsule live, with handles in sy.h. -/
def handler (spad : Bool) : State := put (full.onMe fun k => { k with capsule := some caps, masked := true })
  [(.syH, if spad then spadH else memH), (.syTo, 9)]

/-- An image of that place and cause in the scratchpad at 0, and the end of a TRET's bundle. -/
def returning : State := (handler true).onMe fun k => { k with
  spad := (Memory.write [] 0 8 caps.baddr.abs.toNat).write 16 8 caps.word2
  bs := { k.bs with tret := some (2 ^ 64 + 0) } }

/-- CapsulesTrapsAndReturns: an image to store in either memory, none live, a return, and its image accepted. -/
theorem witness_capsule :
    ([true, false].all fun b => let s := handler b
      [Instr.capst (imm 64), .tret (imm 64), .trap (imm 9), .brk (imm 0)].all (ready s) &&
      [CapField.cause, .faddr, .resume, .bundle].all (fun f => placed s (.capr f (imm 0)) .s .syTo) &&
      !slotsFull (s.chargeSlot (.capst (imm 64))) 24) = true ∧
    (handler true).me.capsule = some caps ∧ ready full (.capst (imm 64)) = true ∧ full.me.capsule = none ∧
    64 + 1536 ≤ Handle.size (BitVec.ofNat 128 spadH) := by decide

theorem witness_return :
    returning.me.bs.waits = [] ∧ returning.storesOut = false ∧
    (capImage (returning.me.spadRead 0 1536)).refused returning.me = none := by decide

/-- Core 0 with a raised fault waiting, over the context's registers given. -/
def faulted (tvec capb : W64) : State := (strands.onCtx 0 fun x => { x with tvec := tvec, capb := capb }).onMe fun k =>
  { k with phase := .faulting ⟨.align, 5, 2, true, ⟨32, 0⟩⟩ }

/-- TrapsAndWatchdogsStrike: a fault with and without a handler, one inside a handler, frozen bundles before and at the
limits, a slice that ends and one overrun. -/
theorem witness_traps :
    let s := faulted 64 0x200000
    s.me.fl = [] ∧ (s.ctx 0).capb ≠ 0 ∧ (s.present 0 0x200000).isSome = true ∧ s.me.bs.deferred = [] ∧ s.me.masked = false ∧
    (s.ctx s.me.ctx).tvec ≠ 0 ∧ ((faulted 0 0).ctx 0).tvec = 0 ∧ (faulted 0 0).strandQuiet 0 = true ∧
    (handler true).me.masked = true ∧ (s.ctx 0).dead = false ∧ ((s.onCtx 0 fun x => { x with dead := true }).ctx 0).dead = true ∧
    ([true, false].all fun p => let f := full.onMe fun k => { k with bs := { k.bs with frozenSince := some 0, pipeWait := p } }
      decide ((f.core 0).bs.frozenSince = some 0) && decide ((f.cluster 0).hedge.strand ≠ some 0) &&
      decide ((f.core 0).phase = .run) && decide (0 < f.die.fwdl ∧ 0 < f.die.pwdl)) = true ∧
    (let z := full.onMe fun k => { k with inSlice := true, budget := 10 }
     (z.core 0).run = some probeStrand ∧ probeStrand.gang = none ∧ (z.core 0).inSlice = true ∧ (z.core 0).switchDue = false ∧
       z.now < (z.core 0).sliceFrom + 5 * (z.core 0).budget) := by decide

/-- SystemRegisterAccess: reads and writes in and out of range, of context 0 and of another, a divisor at its floor, a page
to revoke, a preset. -/
theorem witness_system :
    let s := regs (put full [(.syX, 0x2000000), (.syTo, 9)]) [(3, 0x10001), (4, 0x20000)]
    let u := s.onMe fun k => { k with bs := { k.bs with committed := true } }
    [Instr.ecnt (imm 0), .ncsr (imm 0)].all (fun i => placed u i .s .syTo) = true ∧ u.me.bs.committed = true ∧
    [Instr.ncsw true (imm 127), .ncsw false (imm 127), .ncsw true (imm 255), .sysr (reg 3), .sysw (reg 3), .clkdiv .mat (imm 3),
     .clkdiv .ctl (imm 15), .clkdiv .cpy (imm 2), .clkdiv .vec (imm 16)].all (ready s) = true ∧
    s.floorOf s.cur = 3 ∧ (s.sysRead 1 1).isSome = true ∧ bits 0x10001 15 12 = 0 ∧ firmwareReg 1 = false ∧
    readOnlyReg 1 = false ∧ sysRefuses (s.ctx 1) 1 0x2000000 = false ∧
    (s.onMe fun k => { k with ctx := 5 }).me.ctx ≠ 0 ∧ ready (s.onMe fun k => { k with ctx := 5 }) (.sysr (reg 3)) = true ∧
    ((s.onMe fun k => { k with bs := { k.bs with waits := [.revoke 0 0x200000 0] } }).core 0).bs.waits = [.revoke 0 0x200000 0] ∧
    ((s.core 0).pctxOf 3).inArea = false := by decide

/-- BundlesRunAndGoOn: a bundle whose slots are ready, its commit done, its end with a next bundle, a segment arrived. -/
theorem witness_bundle :
    let s := full
    let b := probeBundle 0x041020
    (∃ g, s.me.half s.me.cur = .full g ∧ g.addr = s.me.pc.seg ∧ g.bad = none ∧ s.me.pc.bix.toNat < g.bundles.length) ∧
    s.me.bs = BundleState.reset ∧ s.pausedByPhase = false ∧ (decodeBundle b false).isOk = true ∧
    s.me.endPlan.1.seg ≠ 0 ∧ hdrKind s.me.bs.hdr = 0 ∧ hdrPop s.me.bs.hdr = 0 ∧
    (commitSlots 8 (List.replicate 8 (.nullMove 3 0x10 false 0))
      (s.onMe fun k => { k with bs := { k.bs with level := some 0 } })).1 = true ∧
    (let e := s.onMe fun k => { k with halves := #v[.expanding 64 0, .empty] }
     (e.core 0).halves[0] = .expanding 64 0 ∧ (e.core 0).halves[1] = .empty ∧ ((e.expand 0 (e.core 0).halfCtx[0] 64).1.core 0).halves[1] = .empty) :=
  ⟨⟨_, rfl, by decide⟩, by decide⟩

/-- A released record of context 0. -/
def rec0 (released : Option Nat) : QRec :=
  ⟨5, ⟨0, 0, 0, 0, 1, 2, 3, 4⟩, none, released, none, 0, 0, 0, [], none⟩

/-- RecordsArePickedUp: a free core in a slice with one record released; a record due; a core that switches. -/
theorem witness_pickup :
    let s := (State.reset.onCluster 0 fun k => { k with queue := [rec0 (some 0)] }).onCore 0 fun k => { k with inSlice := true }
    (s.core 0).isFree = true ∧ (s.cluster 0).retained = false ∧ (s.core 0).time ≤ s.now ∧ (s.core 0).switchDue = false ∧
    (s.cluster 0).resv = none ∧ (s.cluster 0).queue = [rec0 (some 0)] ∧ (rec0 (some 0)).rcd.ctx = (s.core 0).ctx ∧
    (s.ctx 0).saveb = 0 ∧ clusterOf 0 = 0 ∧
    (let g : State := State.reset.onCluster 0 fun k => { k with queue := [{ rec0 (some 0) with gang := some (⟨1, [0], []⟩, [256]) }] }
     (match (g.onCore 0 fun k => { k with inSlice := true }).larkChoice 0 with | .gang q => q.gang.isSome | _ => false) = true) := by decide

/-! Launches and streams. -/

/-- Context 2 with one packet in its command ring: operation op, and what is written over the memory. -/
def packet (op : Nat) (ext : List (Nat × Nat × Nat)) : State := (ram State.reset ([(0x10000, 1, op)] ++ ext)).onCtx 2 fun x =>
  { x with ena := true, csb := 0x10000, csn := 4, cst := 1, cqb := 0x20000, cqn := 4, tdir := 0x2000, mapb := 0x1000, mapn := 1 }

/-- A stream's descriptor at 0x200080, with its mapping, template and packet. -/
def opening : State := packet 3 [(0x1000, 8, 2 ^ 63 + 2 ^ 62 + 2 ^ 60 + 2 ^ 59 + 2 ^ 58 + 0x200000), (0x1008, 8, 0x200000),
  (0x2000, 8, 0x3000), (0x2008, 8, 1), (0x10001, 1, 5 * 2), (0x10010, 8, 0x200080), (0x200080, 8, 1000), (0x200088, 4, 27),
  (0x20008C, 4, 30), (0x200090, 1, 1), (0x200091, 1, 2), (0x2000A8, 8, 0x500)]

/-- A stream 5 of context 2 to be closed. -/
def closing : State := { packet 4 [(0x10001, 1, 10)] with
  streams := [(5, some { ring .free with ctx := 2, slots := [⟨.free, 0, 0, 0, 0, [], 0, false, []⟩] })] }

/-- LaunchPacketsAreTaken: packets of every operation, good and not, on a ring with room; an open, a close. -/
theorem witness_packets :
    ([0, 1, 2, 3, 4, 5, 255].all fun op => let s := packet op []
      decide ((s.ctx 2).ena = true ∧ (s.ctx 2).csh ≠ (s.ctx 2).cst ∧ (s.ctx 2).heldC = [] ∧ s.die.stopped = false ∧
        s.die.powered = true ∧ s.packet 2 % 256 = op) && s.launches.isEmpty) = true ∧
    ((packet 0 []).ctx 2).cqt = ((packet 0 []).ctx 2).cqh ∧
    packetOk ((packet 0 []).packet 2) = true ∧ packetOk ((packet 0 [(0x10001, 8, 0xABCD)]).packet 2) = false ∧
    (let x : CtxId := 2
     let v := opening.packet x
     packetOk v = true ∧ bits v 14 9 = 5 ∧ opening.stream 5 = none ∧ getBytes v 16 8 % 128 = 0 ∧
     (match (pastPacket opening x).readVirt x (getBytes v 16 8) 128 with
      | some d => ((pastPacket opening x).newStream x d).isSome
      | none => false) = true) ∧
    (packetOk (closing.packet 2) = true ∧ (closing.stream 5).isSome = true ∧ closing.streamBusy 5 = false ∧
      closing.w3Pending 5 = false) := by decide

/-- A launch of context 2 with identifier 3 at a step. -/
def launch3 (st : LStep) : Launch := { launchOf 3 2 0 [] with step := st, count := 3, wj := some 7 }

/-- LaunchesWaitAndStart: each step of a launch, at and before its times, with room to park and none. -/
theorem witness_launches :
    ([LStep.parked, .start, .empty, .live].all fun st =>
      let s : State := { packet 0 [] with launches := [launch3 st], now := 27000 }
      decide (s.launch 3 = some (launch3 st) ∧ (s.join 7).parked.contains 3 = false ∧
        (launch3 st).startAt.toNat ≤ s.gt)) = true ∧
    (packet 0 []).gt < { launch3 .start with startAt := 5 }.startAt.toNat ∧
    (launch3 .start).leases.length = 0 ∧ (launch3 .start).gang = none ∧ (launch3 .start).frNext = none ∧
    (launch3 .start).pfx = 0 ∧ (launch3 .start).sv = false ∧ (launch3 .start).live = 0 ∧ 0 < (launch3 .start).count ∧
    { launch3 .start with entry := 0x500 }.entry.toNat % 256 = 0 ∧
    (let s : State := { packet 0 [] with launches := [launch3 .start] }
     let t := s.setJoin 7 { s.join 7 with value := 4 }
     (t.join 7).value ≠ 0 ∧ t.parkedOf 2 < 64 ∧
     64 ≤ ({ t with launches := List.replicate 64 (launch3 .parked) } : State).parkedOf 2) ∧
    (let f := { launch3 .frame with strm := 5, accepted := 1 }
     let s : State := { packet 0 [] with launches := [f], streams := [(5, some (ring .free))] }
     s.launch 3 = some f ∧ s.tickOf 0 ≤ f.accepted ∧ ¬ s.tickOf 0 ≤ { f with accepted := -1 }.accepted ∧
       s.die.posted = []) ∧
    (let s := packet 0 []
     (s.onCtx 2 fun c => { c with cst := 1 }).packet 2 % 256 = 0) := by decide

/-! The host, Bracken for the host, the video path, power. -/

/-- HostReadsAndWrites: what each clause asks of the part, at its bounds. -/
theorem witness_host :
    let s := State.reset
    let r : Reading := ⟨5, List.replicate 64 3⟩
    let d : State := { s with die := { s.die with scarg := 5, readings := [r] } }
    s.die.powered = true ∧ s.die.held = false ∧ s.anyLive = false ∧
    ({ s with launches := [launch3 .live] } : State).anyLive = true ∧ (launch3 .lease).step = .lease ∧
    (0 : W64).toNat % 32 = (0 : Fin 17).val ∧ (16 : W64).toNat % 32 = (16 : Fin 17).val ∧ s.readingsSpent = false ∧
    s.die.readings.any (fun r => r.seq == s.die.scarg) = false ∧ d.die.readings = [r] ∧ r.seq = d.die.scarg ∧
    r.body.length = 64 ∧ ({ s with die := { s.die with held := true } } : State).die.held = true ∧
    ((List.range 64).all fun k => !(s.cluster (BitVec.ofNat 6 k)).retained) = true ∧
    0x3FEFFFFFFE + 2 ≤ 0x3FF0000000 ∧ (0x3FFFFFFFFF : BitVec 52).toNat < 0x4000000000 ∧
    0x4000000000 ≤ (0x4000000000 : BitVec 52).toNat ∧ s.die.posted = [] ∧
    (let i : Instr := .hostWriteArrive 0 [1]
     ({ s with die := { s.die with posted := [i] } } : State).die.posted = [i] ∧ i ≠ .hostWriteArrive 8 [1]) ∧
    (let t : State := { s with trees := [(1, some ⟨0, 4, 1000, 8, 0, 0, 0, 0, 0x8000, []⟩)] }
     t.hostBarred 0x803F = true ∧ t.hostBarred 0x8040 = false ∧ t.hostBarred 0x3FF0000000 = true) := by decide

/-- A tree 1 of context 0 with eight nodes of 16 units, nodes 1 and 2 a path, node 2 with a pinned payload. -/
def tree8 : Tree := ⟨0, 4, 1000, 8, 0x400000, 0x500000, 0x600000, 0x700000, 0x800000, []⟩

/-- A part with tree 1 enabled, its node 2 valid, with a payload of no page, at depth 1 and with one pin, a request for that
node and a buffer of 4 KiB, and an image of one granule in it. -/
def snapshots : State :=
  let s := ram State.reset [(0x40010C, 4, 1), (0x400114, 4, 1), (0x400130, 4, 3), (0x100000, 8, 1 + 4 * 2 ^ 8 + 2 ^ 20),
    (0x100008, 8, 192)]
  { s with
    trees := [(1, some tree8)]
    die := { s.die with bkxarg := 1 + 64 * 2, bkxbuf := 0x100000, bkxlen := 4096, bktb := 0x8000 } }

/-- SnapshotRequestsAreServed: a descriptor that is good, one that is not, an enabled tree and none; a request. -/
theorem witness_snapshots :
    let s := State.reset
    let t : State := { s with trees := [(1, some tree8)], die := { s.die with bkxarg := 1, bktb := 0x8000 } }
    s.tree 1 = none ∧ readTree s.mem (s.die.bktb.toNat + 128) = none ∧ (t.tree 1).isSome = true ∧
    s.tree (s.die.bkxarg.toNat % 64) = none ∧ t.tree (t.die.bkxarg.toNat % 64) = some tree8 ∧
    (readTree (ram s [(128, 8, 1000), (136, 8, 0x400), (152, 8, 8)]).mem (s.die.bktb.toNat + 128)).isSome = true ∧
    (let x := snapshots
     let w0 := x.mem.read 0x100000 8
     bits x.die.bkxarg.toNat 25 6 = 2 ∧ x.nodeV tree8 2 = true ∧ x.nodeP tree8 2 = true ∧ x.nodePin tree8 2 = 1 ∧
       x.nodeDepth tree8 2 = 1 ∧ (payPages x (tree8.payAt 2)).length = 0 ∧ x.poison = [] ∧
       64 + 64 + 2048 ≤ x.die.bkxlen.toNat ∧ 0x100000 + 64 ≤ tree8.nodeAt 2 ∧
       bits w0 7 0 = 1 ∧ bit w0 19 = false ∧ bits w0 43 20 = 1 ∧ bits w0 18 12 = 0 ∧ bits w0 11 8 = tree8.gl ∧
       x.mem.read 0x100010 48 = 0 ∧ x.mem.read 0x100008 8 ≤ x.die.bkxlen.toNat ∧
       (x.walkImage 1 tree8 0x100040 1 Walk.start).2.j = 0) := by decide

/-- An encoder with a whole RAW tile of 4 by 4 samples for slot 0 (RSEQ 2) of stream 5, whose slot is PROD. -/
def encoding (hdr : Nat) (ended : List (StrmId × Nat)) (last : SlotSt) : State :=
  let t : Stream := { ring .free with obase := 0x800000, slots := [⟨last, 2, 9, 1, 0, [], 0, false, []⟩] }
  ({ State.reset with streams := [(5, some t)] }).onEnc 0 fun e =>
    { e with queue := [(5, ⟨BitVec.ofNat 512 hdr, 0, false⟩, true)], ended := ended }

/-- R358: RSEQ 2, x and y 0, WM1 and HM1 3, plane 0, one byte a sample; then the samples. -/
def tile44 : Nat := 2 + 3 * 2 ^ 64 + 3 * 2 ^ 72 + 0x0F0E0D0C0B0A09080706050403020100 * 2 ^ 128

/-- EncodersAndDecodersRun: entries that arrive, are taken and wait; a good tile and a bad header; a frame to be coded;
jobs that are good and are not. -/
theorem witness_video :
    let s := encoding tile44 [] .prod
    (match tileHdr tile44 with
      | some h => h.bytes == 32 && !h.last && s.tileOk (Option.getD (s.stream 5) (ring .free)) 5 h
      | none => false) = true ∧
    (s.enc 0).queue.length = 1 ∧ (s.enc 0).ended = [] ∧ (s.enc 0).takes.length = 0 ∧ (s.enc 0).skip = [] ∧
    tileHdr (tile44 + 2 ^ 88) = none ∧ 32 + 64 ≤ 4096 ∧
    ((encoding tile44 [(5, 0)] .prod).enc 0).ended = [(5, 0)] ∧
    4 ≤ ((encoding tile44 (List.replicate 4 (5, 0)) .prod).enc 0).ended.length ∧
    (let d := (ram State.reset [(0x30000 + 12, 1, 2), (0x30000 + 28, 1, 1)]).onCtx 2 fun x =>
        { x with djb := 0x30000, djn := 4, djt := 1 }
     d.decs[0] = none ∧ d.nextJob 2 = some 0 ∧ d.jobBad (d.jobAddr 2 0) = false ∧
     (State.reset).jobBad 0x30000 = true) := by decide

/-- PowerManagementSteps: clusters that may and may not sleep, sleeping, calm and not; trips armed and set; a save begun,
at its last context and over. -/
theorem witness_power :
    let s := State.reset
    let r : State := s.onCluster 0 fun k => { k with retained := true }
    let tripped : State := { s with die := { s.die with trips := Vector.replicate 3 true } }
    (s.cluster 0).retained = false ∧ s.mayRetain 0 = true ∧ base.mayRetain 0 = false ∧ (r.cluster 0).retained = true ∧
    s.slines.length = 0 ∧ s.die.timer.next ≤ s.gt ∧
    s.gt < ({ s with die := { s.die with timer := { s.die.timer with next := 1 } } } : State).die.timer.next ∧
    s.gt < s.die.timer.okAt + 10 * s.die.timer.ptmiv * 1000000 ∧
    (let t : State := { s with now := 2700000000 }
     t.die.timer.okAt + 10 * t.die.timer.ptmiv * 1000000 ≤ t.gt ∧ 1350000 ≤ t.now) ∧
    (94 : BitVec 8).toNat < tripAt 0 ∧ tripAt 0 ≤ (95 : BitVec 8).toNat ∧ (104 : BitVec 8).toNat < tripAt 1 ∧
    tripAt 1 ≤ (105 : BitVec 8).toNat ∧ (114 : BitVec 8).toNat < tripAt 2 ∧ tripAt 2 ≤ (115 : BitVec 8).toNat ∧
    (90 : BitVec 8).toNat + 5 ≤ tripAt 0 ∧ s.savedNow 3 = false ∧
    ({ s with launches := [launch3 .live] } : State).anyLive = true ∧
    s.now < (s.cluster 0).calmSince + 1350000 ∧ s.gt % 100000000 = 0 ∧ s.die.saving = none ∧
    s.die.trips[0] = false ∧ s.die.trips[1] = false ∧ tripped.die.trips[0] = true ∧ tripped.die.trips[1] = true ∧
    ({ s with die := { s.die with saving := some 16 } } : State).die.saving = some 16 ∧
    ({ s with die := { s.die with saving := some 15 } } : State).haltedFor 511 15 = true ∧
    (base.core 0).phase ≠ .idle := by decide

/-- StepsKeepMemoryCanonical: a memory in canonical form that a step changes. -/
theorem witness_canonical : strands.mem.wf = true ∧ strands.mem.length ≠ 0 := by decide

/-! ### The spec's worked examples -/

/-- R4: a deadline before another across the wrap; the example record of R9. -/
theorem test_record : serialLt 32 0xFFFFFF00 0x100 = true ∧
    (let r : Record := ⟨0x0000123456780500, 0x00000300702A1490, 0x0000010000004E20, 0, 0, 0, 0, 0⟩
     r.place = ⟨0x0000123456780 * 16, 5⟩ ∧ r.inst = 3 ∧ r.node = 7 ∧ r.tmpl = 0x02A ∧ r.strm = 5 ∧ r.ctx = 2 ∧ r.rung = 1 ∧
       r.rel = 256 ∧ r.dln = 20000) := by decide

/-- R25's example: v33 of one iteration is v34 of the next. -/
theorem test_rotation : physName 5 0 (0x50 + 33) = physName 4 0 (0x50 + 34) ∧ physName 0 0 (0x50 + 33) = physName 31 0 (0x50 + 34) := by
  decide

/-- R108's example; R112's link; R335's keys; R178's swizzle; the example of R266: slice, cluster 13, set 84. -/
theorem test_examples : resExt .sg64 0xF3A0 0x604 = 0xFFFFFFFFFFFFFFFA ∧
    (⟨0x401200, 10⟩ : Target).abs = 0x0A00000000401200 ∧
    hashStep 1000 0 7 = 8 ∧ hashStep 1000 8 0 = 8001 ∧ hashStep 1000 8001 65535 = 8066536 ∧
    swz 0x0C42 0x000E0380 = 0x0C72 ∧ swz 0x0442 0x000E0380 = 0x0452 ∧
    sliceHash 0x001234567A00 = 0x06F ∧ homeCluster 0x001234567A00 = 13 := by decide

/-- Worked conversions of R33 to R47: 300.0 and 500.0 to e4m3 and saturated, 0.001, -1.0 by a NaN scale, and to FP32 and BF16. -/
theorem test_conversions :
    (Machine.encode 0x07C36000 false (fp32.value 0x43960000) 127).code = 0x79 ∧
    (Machine.encode 0x07C36000 false (fp32.value 0x43FA0000) 127).code = 0x7F ∧
    (Machine.encode 0x07C37000 false (fp32.value 0x43FA0000) 127).code = 0x7E ∧
    (Machine.encode 0x07C36000 false (fp32.value 0x3A83126F) 117).code = 0x38 ∧
    (Machine.encode 0x07C36000 true (fp32.value 0xBF800000) 255).code = 0xFF ∧
    (decodeNarrow 0x07C36000 .rne 0x38 130).1 = 0x41000000 ∧
    (fRound bf16 .rne (fp32.value 0x3F808000)).1 = 0x3F80 ∧ (fRound bf16 .rne (fp32.value 0x3F818000)).1 = 0x3F82 := by decide

/-- R143's example: 1.0 and fifteen times 2^-24 sum to 1 + 7 * 2^-23. -/
theorem test_reduction :
    (treeReduce (laneAdd (.fl .f32) .rne) 4 (leaves (.fl .f32) (BitVec.ofNat 512
      ((List.range 15).foldl (fun a i => a + 0x33800000 * 2 ^ (32 * (i + 1))) 0x3F800000)))).1 = 0x3F800007 := by decide

/-- A step runs the placed word: 4 -> ia.x sets the port. -/
theorem test_step : (after (step (State.reset.withFetchWord 24 0x811000)) base).me.port .iaX = some 4 := by decide

/-! ### The clauses on an engine's cycle, the unit's operations, a bundle's end and a switch -/

/-- A pass whose header is read, at a symbol of the given word, its line at hand. -/
def passAt (w : Nat) : Pass := { pass0 with
  hdrRead := true, tfmt := 0x07C37000, nsym := 9, asked := 9, flying := [], saved := [], pushes := []
  lines := [(0, BitVec.ofNat 1024 (0x07C37000 + 9 * 2 ^ 32 + w * 2 ^ 128), none)], issueFrom := some 0 }

/-- Core 0 in a pass. -/
def inPass (p : Pass) : State := engines.onSg fun g => { g with pass := some p }

/-- SedgePassesRun: the cycle that waits for a row of the gather engine; passes that issue, up to the width and to a
failing symbol; each kind of symbol, a missing line and a bad one, headers good and bad, a page's end, a full q2. -/
theorem witness_issue :
    let e : State := { engines with events := [(0, .gatherOpComplete 0)] }
    let s := inPass (passAt 0)
    let f := passAt (2 ^ 30)
    (e.events.any fun e => decide (e.1 ≤ engines.now) && e.2 == .gatherOpComplete 0) = true ∧
    (s.events.any fun e => decide (e.1 ≤ s.now) && e.2 == .gatherOpComplete 0) = false ∧
    ([0, 2 ^ 30, 2 ^ 31, 3 * 2 ^ 30 + 1].all fun w => let p := passAt w
      decide (p.issued + 8 ≤ p.asked) && p.issuing 0 && p.hdrRead && !p.stalled && (p.lineOf (p.symOff p.pos) == 0)) = true ∧
    ((passAt 0).issue (s.core 0) [] 4).fail = none ∧
    (f.issue (s.core 0) [] 4).fail = some (.ruleundef, 16) ∧ (f.issue (s.core 0) [] 4).pushes = [] ∧
    [0, 2 ^ 30, 2 ^ 31 + 2 ^ 11, 3 * 2 ^ 30 + 1].map symOf = [.term 0 0, .ref 0, .define 0 1, .endRow] ∧
    [Sym.term 0 0, .define 0 1, .endRow].all (fun y => (passAt 0).symFault y == none) = true ∧
    { passAt 0 with lines := [] }.line 0 = none ∧ (passAt 0).xb / 64 % 16 ∉ [1] ∧
    { passAt 0 with lines := [(0, 0, some .hstale)] }.line 0 = some (0, some .hstale) ∧
    Handle.size (passAt 0).handle < { passAt 0 with off := 2 ^ 19 - 16 }.symOff 0 + 4 ∧
    (s.core 0).q2Full = false ∧
    ({ s.core 0 with q2 := List.replicate 64 ⟨0, 0, false⟩ } : Core).q2Full = true ∧ (s.core 0).bs.dropping = false ∧
    ([(0, false), (2 ^ 56, false), (2 ^ 32, false), (0x07C37000 + 2 ^ 32, true)].all fun h =>
      (h.1 / 2 ^ 32 % 2 ^ 24 != 0 && decide (h.1 < 2 ^ 56) && Fmt.consistent (BitVec.ofNat 32 h.1)) == h.2) = true := by decide

/-- Mapped bytes of context 0: descriptors of SNAP and of SNFIND for tree 1 with an input of 16 units, and in the
second part a node 1 for that input, with a payload. -/
def unitAt (node : Bool) : State :=
  let key := (List.replicate 16 0).foldl (hashStep 1000) 0
  { ram strands ([(0x200000, 8, 1 + 2 ^ 8), (0x200008, 8, 0x200040), (0x200010, 8, 1), (0x200018, 8, 0x200080),
      (0x200020, 8, 0x2000C0), (0x200100, 8, 1), (0x200108, 8, 0x200040), (0x200110, 8, 16), (0x200118, 8, 0x201000)] ++
      if node then [(0x400080, 8, key), (0x40008C, 4, 1), (0x4000B0, 4, 3)] else []) with
    trees := [(1, some tree8)] }

/-- BrackenAndWindowTriggers: the unit reads its descriptors, its tree is found and its areas lie apart; walks to a child
and to none; room for a node; a payload and where it is copied to; pins. -/
theorem witness_unit :
    TreeApart tree8 ∧
    let s := unitAt false
    let f := unitAt true
    let q : Reader := ⟨0, none, none⟩
    let d := s.unitReadMany q 0x200000 4
    let e := f.unitReadMany q 0x200100 4
    let h := (s.inputUnits q 0x200040 16 0).2.foldl (hashStep 1000) 0
    s.barred q 0x200000 64 false true = none ∧ s.barred q 0x300000 64 false true = some .lease ∧
    snapDesc d.2 = some ⟨none, 1, 1, 0x200040, 1, 0x200080, 0x2000C0⟩ ∧ snapDesc 0 = none ∧
    (match s.treeFor 0 1, s.treeFor 0 2, s.treeFor 3 1 with
      | .ok t, .error .illopd, .error .priv => t == tree8
      | _, _, _ => false) = true ∧
    [(0x200040, 64), (0x200080, 64), (0x2000C0, 64)].all (fun a => s.barred q a.1 a.2 false true == none) = true ∧
    findDesc e.2 = some ⟨1, 0x200040, 16, 0x201000⟩ ∧ f.barred q 0x201000 2048 true false = none ∧
    s.childOf tree8 0 h = none ∧ f.childOf tree8 0 h = some 1 ∧ f.storedUnits tree8 1 = List.replicate 16 0 ∧
    f.storedUnits tree8 1 ≠ List.replicate 16 1 ∧
    ((upto 8).find? fun n => n != 0 && !s.nodeV tree8 n) = some 1 ∧ h < 2 ^ 64 ∧
    (f.walk 1 tree8 q 0x200040 1 Walk.start).2.best = some 1 ∧ (s.walk 1 tree8 q 0x200040 1 Walk.start).2.best = none ∧
    f.nodePin tree8 1 ≠ 2 ^ 32 - 1 ∧ f.nodeV tree8 1 = true ∧
    tree8.desc + 128 ≤ tree8.nodeAt 1 ∨ tree8.nodeAt 1 + 128 ≤ tree8.desc := by
  refine ⟨by unfold TreeApart; decide, ?_⟩
  decide

/-- Core 0 at the end of a bundle of KIND k and POP p, its place the close of its loop, a handler's when masked. -/
def ending (k p : Nat) (l : BitVec 32) (masked : Bool) : State := base.onMe fun c => { c with
  q0 := [⟨7, 0, false⟩]
  halves := let f (h : Half) : Half := match h with | .full g => .full { g with next := 512 } | h => h
    #v[f c.halves[0], f c.halves[1]]
  loops := [⟨l, 0, c.pc.bix, c.pc.seg⟩], masked := masked, capst := true
  bs := { c.bs with hdr := BitVec.ofNat 64 (k * 2 ^ 52 + p * 2 ^ 56) } }

/-- BundlesRunAndGoOn: ends of every kind, with a head to pop and none, that nothing delays; the faults and freezes of an
end; a pipe's head. -/
theorem witness_ends :
    ([(0, 0, false), (0, 1, false), (1, 0, false), (2, 0, true), (2, 0, false), (3, 0, false), (4, 1, false),
        (5, 0, false)].all fun x => [1, 2].all fun l =>
      let s := ending x.1 x.2.1 l x.2.2
      decide (hdrKind s.me.bs.hdr = x.1 ∧ (hdrPop s.me.bs.hdr).toNat = x.2.1) && s.me.bs.waits.isEmpty &&
        s.me.bs.tret.isNone && !s.me.bs.uiret && s.me.bs.leave.isNone && (s.popHazards == (none, [])) &&
        s.me.closeFault.isNone && decide (s.me.endPlan.1.seg ≠ 0) && !s.storesOut && !s.me.sliceOver s.me.time) = true ∧
    (ending 3 0 1 false).me.closeFault = none ∧
    ((ending 3 0 1 false).onMe fun k => { k with loops := [] }).me.closeFault = some .loopstk ∧
    ((ending 4 0 1 false).onMe fun k => { k with pc := ⟨k.pc.seg, 5⟩ }).me.closeFault = some .loopstk ∧
    ((ending 4 0 1 false).onMe fun k => { k with ui := { k.ui with active := true } }).me.closeFault = some .illopd ∧
    ((ending 2 0 1 true).onMe fun k => { k with capst := false }).me.capst = false ∧
    (ending 0 2 1 false).popHazards = (some (.qempty, none), []) ∧ (ending 0 16 1 false).popHazards.1 = some (.illopd, none) ∧
    (let s := (withPipe (pipe 2 1 false)).onMe fun k => { k with bs := { k.bs with hdr := 16 * 2 ^ 56 } }
     hdrPop s.me.bs.hdr = 1 <<< (4 : Fin 8).val ∧ s.me.inPipe[0]?.join = some 2 ∧
      (s.cluster (clusterOf s.cur)).pipes[2]?.join = some (pipe 2 1 false) ∧ s.popHazards = (none, [])) ∧
    (let s := (withPipe (pipe 2 0 false)).onMe fun k => { k with bs := { k.bs with hdr := 16 * 2 ^ 56 } }
     s.popHazards.1 = none ∧ s.popHazards.2 ≠ [] ∧ s.endFault = none) := by decide

/-- RecordsArePickedUp: a core that switches to another context, with nothing to wait for, a save area, and values that
fit the control block. -/
theorem witness_switch :
    let s := (((base.onCtx 0 fun x => { x with saveb := 0x900000 }).onCtx 3 fun x => { x with ena := true, slice := 5 }).onCluster 0
      fun k => { k with queue := [{ rec0 (some 0) with rcd := { (rec0 none).rcd with w1 := 3 * 2 ^ 6 } }] }).onCore 0
        fun k => { k with phase := .switching }
    (s.core 0).phase = .switching ∧ (s.core 0).fl = [] ∧ s.strandQuiet 0 = true ∧ s.carriedRace = none ∧
    s.nextOther 0 = some 3 ∧ (s.core 0).run = some probeStrand ∧ (s.ctx (s.core 0).ctx).saveb ≠ 0 ∧
    (s.core 0).vrb < 32 ∧ (s.core 0).prb < 8 ∧ (s.core 0).pctx.lim < 32 ∧ (s.core 0).pctx.divCtl < 16 ∧
    (s.core 0).pctx.divVec < 16 ∧ (s.core 0).pctx.divMat < 16 ∧ (s.core 0).pctx.divCpy < 16 ∧ (s.core 0).mx.cfg = none := by
  decide

/-- MatrixOperationsStart and MatrixOperationsRetire: a format register with a result under way, stale scratchpad
handles; a butterfly, a product with two windows, a drained row of a consistent format, windows at the accumulator's bounds. -/
theorem witness_array :
    let s := (matrix true).onMe fun k => { k with fl := [waiting .ls .s 0xCC] }
    let g : TileCfg := ⟨0, 0x07C37000, 0x07C37000, 0x07C37000, 0⟩
    ready s (.mcfg (imm 0x12)) = true ∧ s.me.ofBundle 900 = false ∧ 0xCD ∈ (waiting .ls .s 0xCC).names ∧
    0xCD ∈ mcfgNames (sval (slotVal s (.mcfg (imm 0x12)))) ∧ mcfgNames 0x12 = [0xCE, 0xCD, 0xCC] ∧
    ((matrix true).me.bad.all fun b => !(mcfgNames 0x12).contains b.reg.toNat) = true ∧
    [Handle.invalid (BitVec.ofNat 128 spadH), spadHandle 3].all (fun h =>
      ready (put (matrix true) [(.mxH, h.toNat)]) (.mldc (imm 0xC7)) && h.isSpad && (!h.v || decide (h.ctx ≠ 0))) = true ∧
    (⟨1, .mhad, 9, none⟩ : ArrayOp).kind = .mhad ∧ (⟨1, .mmac 16 3 8 0 0 g, 9, none⟩ : ArrayOp).kind = .mmac 16 3 8 0 0 g ∧
    Fmt.consistent 0x07C37000 = true ∧ -(2 ^ 39 : Int) ≤ (⟨2 ^ 39 - 1, some .nan, 0⟩ : Win).win ∧
    (⟨2 ^ 39 - 1, none, 0⟩ : Win).win < 2 ^ 39 := by decide

/-- CopiesAndGathersRun, StrandUnitTriggers: a copy whose record is on its way; node entries the cache holds and does not;
addresses that a lease covers and not. -/
theorem witness_misses :
    let y : Copy := { (⟨false, true, BitVec.ofNat 128 memH, 0x200000, none, [], 0, none, 0, 0⟩ : Copy) with record := some 40 }
    let c := engines.onMe fun k => { k with cp := { k.cp with active := some y } }
    let key : CtxId × Nat × Nat := (0, 0, 0)
    let s := strands.onMe fun k => { k with nodeCache := [key] }
    let l : Launch := { launchOf 3 0 0 [] with leases := [⟨0x200000, 4096, true, true, true⟩], step := .live }
    let t : State := { strands.onMe fun k => { k with run := some { probeStrand with launch := some 3 } } with launches := [l] }
    (c.core 0).cp.active = some y ∧ y.record = some 40 ∧ y.next ≤ c.now ∧ c.noSlots 0 1 = false ∧
    key ∈ s.me.nodeCache ∧ key ∉ strands.me.nodeCache ∧ (strands.me.record.tmpl, strands.me.record.node) = (0, 0) ∧
    strands.leaseCached 0x200000 = false ∧ t.leaseCached 0x200000 = true ∧ t.leaseCached 0x201000 = false ∧
    (t.translateHere 0x200000).isSome = true ∧ ready t (.post (reg 0x51)) = true := by decide

/-- StrandsLeaveTheirCore: a waiter of its own counter and none; node entries that ask for a decrement and not. -/
theorem witness_left :
    let q : QRec := { rec0 none with uid := 0 }
    let s := full.setJoin 7 { full.join 7 with value := 4, waiters := [(rec0 none, 0), (q, 0)] }
    let n : State := (ram State.reset [(0x2000, 8, 0x3000), (0x2008, 8, 1), (0x3000, 8, 8 + 7 * 2 ^ 4)]).onCtx 0 fun x =>
      { x with tdir := 0x2000 }
    (full.core 0).run = some probeStrand ∧ probeStrand.gang = none ∧ probeStrand.launch = none ∧
    (s.join 7).waiters.any (fun e => e.1.uid == probeStrand.uid) = true ∧
    (full.join 7).waiters.any (fun e => e.1.uid == probeStrand.uid) = false ∧
    neJen (n.nodeEntry 0 0 0) = true ∧ neJctr (n.nodeEntry 0 0 0) = 7 ∧ neJen (full.nodeEntry 0 0 0) = false ∧
    s.joinForeign 7 0 = false ∧ (s.join 7).value ≠ 0 := by decide

/-- VectorScratchpadAccesses and VectorGathersAndScatters: bytes with a soft error, first and last of a line and in a lane;
CapsulesTrapsAndReturns: an image not yet asked for, and one that has come; TrapsAndWatchdogsStrike: nothing in revocation. -/
theorem witness_errors :
    let s := (regs vec [(4, 0x7FFC0)]).onMe fun k => { k with spadBad := [0x7FFC0, 0x7FFFF, 60] }
    vready s (.vld (reg 4)) = true ∧ s.me.spadErr 0x7FFC0 64 = true ∧ s.me.spadErr 0x7FF80 64 = false ∧
    lane 32 (slotVal s (.vgth false (reg 0x51))) 0 = 60 ∧ s.me.spadErr 60 4 = true ∧ s.me.bs.deferred = [] ∧
    vready s (.vgth false (reg 0x51)) = true ∧ (s.me.fl.all fun f => decide (f.id < s.nextId)) = true ∧
    returning.me.bs.imageAt = none ∧ returning.me.spadErr 0 1536 = false ∧
    (returning.onMe fun k => { k with bs := { k.bs with imageAt := some 0 } }).me.bs.imageAt = some 0 ∧
    0 ≤ returning.me.time ∧ hdrKind returning.me.bs.hdr = 0 ∧ hdrPop returning.me.bs.hdr = 0 ∧
    ((faulted 64 0x200000).core 0).revoking = false ∧ ((faulted 0 0).core 0).revoking = false := by decide

/-- LaunchesWaitAndStart: a launch whose every leased page is present, one in a window, a frame that waits and one that
does not. -/
theorem witness_leased :
    (let s : State := { strands with launches := [{ launch3 .start with ctx := 0, leases := [⟨0x200000, 2 ^ 19, true, true, true⟩] }] }
     s.launch 3 = some { launch3 .start with ctx := 0, leases := [⟨0x200000, 2 ^ 19, true, true, true⟩] } ∧
      (s.mapping 0 0x200000).map (·.present) = some true ∧ (s.mapping 0 (0x200000 + 2 ^ 19 - 1)).map (·.present) = some true) ∧
    (let w := caches 0
     w.inWindow 0 0x40000000 = true) ∧
    (let f := { launch3 .frame with strm := 5, accepted := 1, sv := true }
     let s (q : Launch) : State := { packet 0 [] with launches := [q], streams := [(5, some (ring .free))] }
     (s f).launch 3 = some f ∧ ((s f).launches.any fun q => q.frameOf 5) = false ∧
      ((s { launch3 .live with strm := 5, sv := true }).launches.any fun q => q.frameOf 5) = true ∧
      (s f).tickOf 0 ≤ f.accepted ∧ (s f).now < (s f).tickEnds 0) := by decide

end Sys2Proof.Tests
end

section
/-! SUPPORT. Vector results: what the charge of a slot leaves unchanged of its context, how a result of vx is put in
flight, and lanes packed and read again (R90, R128, R132). -/

namespace Sys2Proof.Machine

open Sys2Proof.Claims

/-! ### The charge of a slot and its context -/

/-- A charge counts energy and may raise ESAT's mark; it keeps the rest of what the context has on the core (R256,
R258). -/
theorem State.chargeSlot_me_pctx (s : State) (i : Instr) :
    ∃ e b, (s.chargeSlot i).me.pctx = { s.me.pctx with ec := e, satf := b } := by
  simp only [State.me, State.chargeSlot_cur]
  simp only [State.chargeSlot, State.chargeUnits]
  split
  · exact ⟨_, _, rfl⟩
  · split
    · exact ⟨_, (s.core s.cur).pctx.satf, by rw [State.core_setCore, Core.pctx_onPctx]⟩
    · exact ⟨_, _, by rw [State.postEvent_core, State.core_setCore, Core.pctx_onPctx]⟩

@[simp] theorem State.chargeSlot_me_ncs (s : State) (i : Instr) : (s.chargeSlot i).me.pctx.ncs = s.me.pctx.ncs := by
  obtain ⟨e, b, h⟩ := s.chargeSlot_me_pctx i; rw [h]
@[simp] theorem State.chargeSlot_me_divCtl (s : State) (i : Instr) :
    (s.chargeSlot i).me.pctx.divCtl = s.me.pctx.divCtl := by
  obtain ⟨e, b, h⟩ := s.chargeSlot_me_pctx i; rw [h]
@[simp] theorem State.chargeSlot_me_divVec (s : State) (i : Instr) :
    (s.chargeSlot i).me.pctx.divVec = s.me.pctx.divVec := by
  obtain ⟨e, b, h⟩ := s.chargeSlot_me_pctx i; rw [h]

@[simp] theorem State.chargeSlot_me_rm (s : State) (i : Instr) : (s.chargeSlot i).me.rm = mode s := by
  simp [Core.rm, Core.ncsRead, mode]

/-! ### Results of vx in flight -/

/-- A vector trigger with a destination puts its result in flight. -/
theorem vxDeliver_of_destOf {s : State} {i : Instr} {cls : ResClass} {keep : Bool} {d : Option RegName}
    (r : V512 × Flags) (lat : Nat) (h : destOf s cls keep .vxTo = some d) :
    vxDeliver (s.chargeSlot i) cls keep r lat =
      .ok (delivers (s.chargeSlot i) .vx cls d r.1 r.2 (vecLat s lat) (some (.vectorResultDelivery s.cur))) := by
  have hlat : (s.chargeSlot i).me.cyclesOf (s.chargeSlot i).me.pctx.divVec lat = vecLat s lat := by
    simp [Core.cyclesOf, ceilDiv, vecLat]
  rw [vxDeliver, deliver_of_destOf _ _ _ _ _ h, hlat, State.chargeSlot_cur]

/-- A move whose commit is a delivery of vx completes with that result. -/
theorem runMove_vxDeliver {i : Instr} {c : V512 → State → Commit} {s : State} {v : V512} {cls : ResClass}
    {keep : Bool} {d : Option RegName} {r : V512 × Flags} {lat : Nat} (hs : Ready s i v)
    (hd : destOf s cls keep .vxTo = some d)
    (hc : c v (s.chargeSlot i) = vxDeliver (s.chargeSlot i) cls keep r lat) :
    runMove i c s = .next (vecDelivers s i cls d r.1 r.2 lat) := by
  obtain ⟨hv, hp, ha⟩ := hs
  exact runMove_ok hv hp ha (hc.trans (vxDeliver_of_destOf r lat hd))

/-! ### Lanes -/

/-- The lane j of packed values is the value j, cut to the width. -/
theorem packNat_lane (w : Nat) : ∀ (l : List Nat) (j : Nat) (h : j < l.length),
    packNat w l >>> (w * j) % 2 ^ w = l[j] % 2 ^ w
  | x :: l, 0, _ => by simp [packNat]
  | x :: l, j + 1, h => by
    have hj : packNat w (x :: l) >>> (w * (j + 1)) = packNat w l >>> (w * j) := by
      rw [packNat, Nat.mul_add, Nat.mul_one, Nat.add_comm (w * j), Nat.shiftRight_add,
        Nat.shiftRight_eq_div_pow _ w, Nat.add_mul_div_left _ _ (Nat.two_pow_pos w),
        Nat.div_eq_of_lt (Nat.mod_lt _ (Nat.two_pow_pos w)), Nat.zero_add]
    rw [hj, packNat_lane w l j (Nat.lt_of_succ_lt_succ h), List.getElem_cons_succ]

/-- A lane within the vector does not see the cut to 512 bits. -/
theorem lane_ofNat {w j : Nat} (x : Nat) (h : w * j + w ≤ 512) :
    lane w (BitVec.ofNat 512 x) j = x >>> (w * j) % 2 ^ w := by
  refine Nat.eq_of_testBit_eq fun b => ?_
  simp only [lane, Nat.testBit_mod_two_pow, Nat.testBit_shiftRight, BitVec.testBit_toNat, BitVec.getLsbD_ofNat]
  by_cases hb : b < w
  · simp [hb, show w * j + b < 512 by omega]
  · simp [hb]

theorem lane_pack {w : Nat} {l : List Nat} (hw : w * l.length ≤ 512) {j : Nat} (h : j < l.length) :
    lane w (pack w l) j = l[j] % 2 ^ w := by
  have hfit : w * j + w ≤ 512 := Nat.le_trans (Nat.mul_le_mul_left w h) hw
  rw [pack, lane_ofNat _ hfit, packNat_lane w l j h]

theorem lane_lt (w : Nat) (v : V512) (j : Nat) : lane w v j < 2 ^ w := Nat.mod_lt _ (Nat.two_pow_pos w)

/-- Flags gathered with a bitwise or are those that any element raises (R32). -/
theorem getLsbD_foldl_or {α : Type} {n : Nat} (g : α → BitVec n) (b : Nat) : ∀ (l : List α) (a : BitVec n),
    (l.foldl (fun a e => a ||| g e) a).getLsbD b = (a.getLsbD b || l.any fun e => (g e).getLsbD b)
  | [], a => by simp
  | e :: l, a => by rw [List.foldl_cons, getLsbD_foldl_or g b l, BitVec.getLsbD_or, List.any_cons, Bool.or_assoc]

/-- What `laneMap` packs, it holds lane by lane. -/
theorem lanesAre_laneMap {w n : Nat} {f g : Nat → Nat × Flags} (hw : w * n ≤ 512) (hfg : ∀ j, j < n → f j = g j) :
    LanesAre w n (laneMap w n f).1 (laneMap w n f).2 g := by
  have hlen : (((upto n).map f).map (·.1)).length = n := by simp [upto]
  refine ⟨fun j hj => ?_, fun b _ => ?_⟩
  · rw [laneMap, lane_pack (by rwa [hlen]) (by rwa [hlen]), ← hfg j hj]
    simp [upto]
  · have hflag : (laneMap w n f).2.getLsbD b = (List.range n).any fun j => (f j).2.getLsbD b := by
      simp [laneMap, getLsbD_foldl_or, upto, Function.comp_def]
    simp only [hflag, List.any_eq_true, List.mem_range]
    exact exists_congr fun j => and_congr_right fun hj => by rw [hfg j hj]

/-- A trigger of the source alone whose commit maps lanes gives those lanes. -/
theorem vecGivesUnary_of {i : Instr} {m : Mv} {w lat : Nat} {f : State → V512 → Nat → Nat × Flags}
    (c : V512 → State → Commit) (g : State → V512 → Nat → Nat × Flags) (hr : ∀ s, exec i s = runMove i c s)
    (hc : ∀ v s, c v s = vxDeliver s .v m.k (laneMap w (512 / w) (g s v)) lat)
    (hf : ∀ s v j, j < 512 / w → g (s.chargeSlot i) v j = f s v j) : VecGivesUnary i m w lat f := by
  intro s v d hs hd
  exact ⟨_, _, (hr s).trans (runMove_vxDeliver hs hd (hc v _)), lanesAre_laneMap (Nat.mul_div_le 512 w) (hf s v)⟩

/-- A trigger of vx.x and the source whose commit maps lanes gives those lanes. -/
theorem vecGives_of {i : Instr} {m : Mv} {w lat : Nat} {f : State → V512 → V512 → Nat → Nat × Flags}
    (c : V512 → State → Commit) (g : State → V512 → V512 → Nat → Nat × Flags) (hr : ∀ s, exec i s = runMove i c s)
    (hc : ∀ v s, c v s = needPort s .vxX fun x => vxDeliver s .v m.k (laneMap w (512 / w) (g s x v)) lat)
    (hf : ∀ s x v j, j < 512 / w → g (s.chargeSlot i) x v j = f s x v j) : VecGives i m w lat f := by
  intro s v x d hs hx hd
  have hport : (s.chargeSlot i).me.port .vxX = some x := by rwa [State.chargeSlot_me_port]
  exact ⟨_, _, (hr s).trans (runMove_vxDeliver hs hd ((hc v _).trans (needPort_some _ hport))),
    lanesAre_laneMap (Nat.mul_div_le 512 w) (hf s x v)⟩

end Sys2Proof.Machine
end

section
/-! SUPPORT. Conversions of vx (R141, R142): bit fields replaced, blocks of narrow elements, and their formats. -/

namespace Sys2Proof.Machine

open Sys2Proof.Claims

/-! ### A field replaced -/

theorem bits_field (v lo : Nat) {w : Nat} (hw : 0 < w) : bits v (lo + w - 1) lo = v / 2 ^ lo % 2 ^ w := by
  rw [bits, show lo + w - 1 + 1 - lo = w by omega, Nat.shiftRight_eq_div_pow]

/-- A replaced field stands between the bits below it and the bits above it. -/
theorem setBits_eq (v lo x : Nat) {w : Nat} (hw : 0 < w) :
    setBits v lo w x = 2 ^ lo * (2 ^ w * (v / 2 ^ lo / 2 ^ w) + x % 2 ^ w) + v % 2 ^ lo := by
  have hv : v = 2 ^ lo * (2 ^ w * (v / 2 ^ lo / 2 ^ w)) + 2 ^ lo * (v / 2 ^ lo % 2 ^ w) + v % 2 ^ lo := by
    rw [← Nat.mul_add, Nat.div_add_mod, Nat.div_add_mod]
  rw [setBits, bits_field v lo hw, Nat.mul_comm _ (2 ^ lo), Nat.mul_comm _ (2 ^ lo), Nat.mul_add]
  omega

theorem testBit_setBits (v lo x : Nat) {w : Nat} (hw : 0 < w) (j : Nat) :
    (setBits v lo w x).testBit j = if lo ≤ j ∧ j < lo + w then x.testBit (j - lo) else v.testBit j := by
  rw [setBits_eq v lo x hw, Nat.testBit_two_pow_mul_add _ (Nat.mod_lt _ (Nat.two_pow_pos lo)),
    Nat.testBit_two_pow_mul_add _ (Nat.mod_lt _ (Nat.two_pow_pos w))]
  by_cases hlo : j < lo
  · have hj : ¬ (lo ≤ j ∧ j < lo + w) := by omega
    rw [if_pos hlo, if_neg hj, Nat.testBit_mod_two_pow, decide_eq_true hlo, Bool.true_and]
  · rw [if_neg hlo]
    by_cases hin : j - lo < w
    · have hj : lo ≤ j ∧ j < lo + w := by omega
      rw [if_pos hin, if_pos hj, Nat.testBit_mod_two_pow, decide_eq_true hin, Bool.true_and]
    · have hj : ¬ (lo ≤ j ∧ j < lo + w) := by omega
      have habove : j - lo - w + w + lo = j := by omega
      rw [if_neg hin, if_neg hj, Nat.testBit_div_two_pow, Nat.testBit_div_two_pow, habove]

/-- A field replaced in a vector: the bits outside it stay. -/
theorem getLsbD_setBits_outside (v : V512) {lo w j : Nat} (x : Nat) (hw : 0 < w) (h : j < lo ∨ lo + w ≤ j) :
    (BitVec.ofNat 512 (setBits v.toNat lo w x)).getLsbD j = v.getLsbD j := by
  rw [BitVec.getLsbD_ofNat, testBit_setBits _ _ _ hw, if_neg (by omega), BitVec.testBit_toNat]
  by_cases hj : j < 512
  · simp [hj]
  · simp [hj, BitVec.getLsbD_of_ge v j (by omega)]

/-- A field replaced in a vector: it holds the value put there. -/
theorem field_setBits (v : V512) {lo w : Nat} (x : Nat) (hw : 0 < w) (h : lo + w ≤ 512) :
    (BitVec.ofNat 512 (setBits v.toNat lo w x)).toNat / 2 ^ lo % 2 ^ w = x % 2 ^ w := by
  refine Nat.eq_of_testBit_eq fun j => ?_
  simp only [Nat.testBit_mod_two_pow, Nat.testBit_div_two_pow, BitVec.testBit_toNat, BitVec.getLsbD_ofNat,
    testBit_setBits _ _ _ hw]
  by_cases hj : j < w
  · have hin : lo ≤ j + lo ∧ j + lo < lo + w := by omega
    have hfit : j + lo < 512 := by omega
    simp [hj, hin, hfit]
  · simp [hj]

/-! ### Blocks of narrow elements (R142) -/

/-- The width of a block of 16 elements. -/
def blockWidth (F : Fmt) : Nat := if F.isNibble then 64 else 128

/-- The lowest bit of the part of a vector that vx.s names. -/
def blockLow (F : Fmt) (sv : V512) : Nat := blockWidth F * (sval sv / 256)

/-- The scale code of a block: that in vx.s, or that of 1. -/
def blockScale (ks : Bool) (sv : V512) : Nat := if ks then sval sv % 256 else 127

theorem blockWidth_pos (F : Fmt) : 0 < blockWidth F := by
  rw [blockWidth]; split <;> decide

theorem block_fits {F : Fmt} {sv : V512} (h : sval sv < 2 ^ 10) : blockLow F sv + blockWidth F ≤ 512 := by
  have hp : sval sv / 256 < 4 := by omega
  simp only [blockLow, blockWidth]
  split <;> omega

section Block

variable {s : State} {ks : Bool} {m : Mv} {v x fv sv : V512} {d : Option RegName}

/-- A consistent format and a part of the vector give a block. -/
theorem withBlock_consistent (c : Fmt → Nat → Nat → Nat → Commit) (hf : s.me.port .vxF = some fv)
    (hs : s.me.port .vxS = some sv) (hc : Fmt.consistent (BitVec.ofNat 32 fv.toNat) = true) (hlt : sval sv < 2 ^ 10) :
    withBlock s ks c = c (BitVec.ofNat 32 fv.toNat) (blockScale ks sv) (blockLow (BitVec.ofNat 32 fv.toNat) sv)
      (blockWidth (BitVec.ofNat 32 fv.toNat)) := by
  have hrest : bits (sval sv) 63 10 = 0 := by
    rw [bits, Nat.shiftRight_eq_div_pow, Nat.div_eq_of_lt hlt, Nat.zero_mod]
  have hscale : bits (sval sv) 7 0 = sval sv % 256 := by simp [bits]
  have hpart : bits (sval sv) 9 8 = sval sv / 256 := by
    simp only [bits, Nat.shiftRight_eq_div_pow]; omega
  rw [withBlock, needPort_some _ hf, needPort_some _ hs]
  simp only [hc, hrest, hscale, hpart, Bool.not_true, Bool.false_eq_true, if_false, ne_eq, not_true_eq_false,
    blockScale, blockLow, blockWidth]

/-- An inconsistent format register is FMTREG (R37). -/
theorem withBlock_inconsistent (c : Fmt → Nat → Nat → Nat → Commit) (hf : s.me.port .vxF = some fv)
    (hs : s.me.port .vxS = some sv) (hc : Fmt.consistent (BitVec.ofNat 32 fv.toNat) = false) :
    withBlock s ks c = .raise .fmtreg none := by
  rw [withBlock, needPort_some _ hf, needPort_some _ hs]
  simp only [hc, Bool.not_false, if_true]

/-- vwiden decodes the elements of the part that vx.s names. -/
theorem exec_vwiden (hr : Ready s (.vwiden ks m) v) (hf : s.me.port .vxF = some fv) (hs : s.me.port .vxS = some sv)
    (hc : Fmt.consistent (BitVec.ofNat 32 fv.toNat) = true) (hlt : sval sv < 2 ^ 10)
    (hd : destOf s .v m.k .vxTo = some d) :
    let F : Fmt := BitVec.ofNat 32 fv.toNat
    ∃ r fl, exec (.vwiden ks m) s = .next (vecDelivers s (.vwiden ks m) .v d r fl 3) ∧
      LanesAre 32 16 r fl fun j => decodeNarrow F (mode s)
        (narrowAt F (v.toNat / 2 ^ blockLow F sv % 2 ^ blockWidth F) j) (blockScale ks sv) := by
  intro F
  have hblock : bits v.toNat (blockLow F sv + blockWidth F - 1) (blockLow F sv) =
      v.toNat / 2 ^ blockLow F sv % 2 ^ blockWidth F := bits_field _ _ (blockWidth_pos F)
  refine ⟨_, _, runMove_vxDeliver hr hd ?_, lanesAre_laneMap (by decide) fun j _ => rfl⟩
  rw [commitVwiden, withBlock_consistent _ (by simpa using hf) (by simpa using hs) hc hlt, State.chargeSlot_me_rm]
  dsimp only
  rw [hblock]

/-- vnarrow encodes the lanes of the source into the part of vx.x that vx.s names. -/
theorem exec_vnarrow (hr : Ready s (.vnarrow ks m) v) (hx : s.me.port .vxX = some x) (hf : s.me.port .vxF = some fv)
    (hs : s.me.port .vxS = some sv) (hc : Fmt.consistent (BitVec.ofNat 32 fv.toNat) = true) (hlt : sval sv < 2 ^ 10)
    (hd : destOf s .v m.k .vxTo = some d) :
    let F : Fmt := BitVec.ofNat 32 fv.toNat
    let e (i : Nat) : Enc := encode F (bit (lane 32 v i) 31) (fp32.value (lane 32 v i)) (blockScale ks sv)
    ∃ r fl, exec (.vnarrow ks m) s = .next (vecDelivers s (.vnarrow ks m) .v d r fl 3) ∧
      (∀ j, j < blockLow F sv ∨ blockLow F sv + blockWidth F ≤ j → r.getLsbD j = x.getLsbD j) ∧
      r.toNat / 2 ^ blockLow F sv % 2 ^ blockWidth F =
        packNarrow F ((upto 16).map fun i => (e i).code) % 2 ^ blockWidth F ∧
      ∀ n, fl.getLsbD n = (upto 16).any fun i => (e i).flags.getLsbD n := by
  intro F e
  refine ⟨BitVec.ofNat 512 (setBits x.toNat (blockLow F sv) (blockWidth F)
      (packNarrow F ((upto 16).map fun i => (e i).code))),
    (upto 16).foldl (fun a i => a ||| (e i).flags) 0, runMove_vxDeliver hr hd (r := (_, _)) ?_,
    fun j => getLsbD_setBits_outside x _ (blockWidth_pos F), field_setBits x _ (blockWidth_pos F) (block_fits hlt),
    fun n => ?_⟩
  · rw [commitVnarrow, needPort_some _ (by simpa using hx),
      withBlock_consistent _ (by simpa using hf) (by simpa using hs) hc hlt]
    dsimp only
    rw [List.map_map, List.foldl_map]
    rfl
  · simp [getLsbD_foldl_or]

theorem exec_vwiden_inconsistent (hr : Ready s (.vwiden ks m) v) (hf : s.me.port .vxF = some fv)
    (hs : s.me.port .vxS = some sv) (hc : Fmt.consistent (BitVec.ofNat 32 fv.toNat) = false) :
    exec (.vwiden ks m) s = .next (s.fault .fmtreg none s.me.bs.slot true) := by
  obtain ⟨hv, hp, ha⟩ := hr
  exact runMove_raise hv hp ha (withBlock_inconsistent _ (by simpa using hf) (by simpa using hs) hc)

theorem exec_vnarrow_inconsistent (hr : Ready s (.vnarrow ks m) v) (hx : s.me.port .vxX = some x)
    (hf : s.me.port .vxF = some fv) (hs : s.me.port .vxS = some sv)
    (hc : Fmt.consistent (BitVec.ofNat 32 fv.toNat) = false) :
    exec (.vnarrow ks m) s = .next (s.fault .fmtreg none s.me.bs.slot true) := by
  obtain ⟨hv, hp, ha⟩ := hr
  refine runMove_raise hv hp ha ?_
  rw [commitVnarrow, needPort_some _ (by simpa using hx)]
  exact withBlock_inconsistent _ (by simpa using hf) (by simpa using hs) hc

end Block

/-! ### Conversions of lanes (R141) -/

/-- Conversions of FP32 lanes of the source, then of vx.x, to half-lanes. -/
theorem vcvt_halves_give (m : Mv) :
    VecGives (.vcvt .f2bf m) m 16 3 (fun s x v j =>
      fRound bf16 (mode s) (fp32.value (if j < 16 then lane 32 v j else lane 32 x (j - 16)))) ∧
    VecGives (.vcvt .f2h m) m 16 3 (fun s x v j =>
      fRound fp16 (mode s) (fp32.value (if j < 16 then lane 32 v j else lane 32 x (j - 16)))) := by
  constructor
  all_goals
    refine vecGives_of _ _ (fun _ => rfl) (fun _ _ => rfl) fun s x v j _ => ?_
    simp only [laneConv, State.chargeSlot_me_rm]

/-- Every conversion, lane by lane. -/
theorem vcvt_gives (m : Mv) :
    VecGivesUnary (.vcvt .bf2f m) m 32 3 (fun s v j => fRound fp32 (mode s) (bf16.value (lane 16 v j))) ∧
    VecGivesUnary (.vcvt .h2f m) m 32 3 (fun s v j => fRound fp32 (mode s) (fp16.value (lane 16 v j))) ∧
    VecGivesUnary (.vcvt .bf2h m) m 16 3 (fun s v j => fRound fp16 (mode s) (bf16.value (lane 16 v j))) ∧
    VecGivesUnary (.vcvt .h2bf m) m 16 3 (fun s v j => fRound bf16 (mode s) (fp16.value (lane 16 v j))) ∧
    VecGivesUnary (.vcvt .f2i m) m 32 3 (fun s v j => fToInt (mode s) true (fp32.value (lane 32 v j))) ∧
    VecGivesUnary (.vcvt .f2it m) m 32 3 (fun _ v j => fToInt .rtz true (fp32.value (lane 32 v j))) ∧
    VecGivesUnary (.vcvt .f2ui m) m 32 3 (fun s v j => fToInt (mode s) false (fp32.value (lane 32 v j))) ∧
    VecGivesUnary (.vcvt .f2uit m) m 32 3 (fun _ v j => fToInt .rtz false (fp32.value (lane 32 v j))) ∧
    VecGivesUnary (.vcvt .i2f m) m 32 3 (fun s v j => intToF (mode s) true (lane 32 v j)) ∧
    VecGivesUnary (.vcvt .ui2f m) m 32 3 (fun s v j => intToF (mode s) false (lane 32 v j)) ∧
    VecGives (.vcvt .f2bf m) m 16 3 (fun s x v j =>
      fRound bf16 (mode s) (fp32.value (if j < 16 then lane 32 v j else lane 32 x (j - 16)))) ∧
    VecGives (.vcvt .f2h m) m 16 3 (fun s x v j =>
      fRound fp16 (mode s) (fp32.value (if j < 16 then lane 32 v j else lane 32 x (j - 16)))) := by
  refine ⟨?_, ?_, ?_, ?_, ?_, ?_, ?_, ?_, ?_, ?_, vcvt_halves_give m⟩
  all_goals
    refine vecGivesUnary_of _ _ (fun _ => rfl) (fun _ _ => rfl) fun s v j _ => ?_
    simp only [laneConv, State.chargeSlot_me_rm]

end Sys2Proof.Machine
end

section
/-! SUPPORT. Reductions of vx (R143): what the fixed tree keeps of its leaves, sums in any order, greatest and least
lanes. -/

namespace Sys2Proof.Machine

open Sys2Proof.Claims

/-! ### The tree -/

theorem pairUp_length (op : Nat → Nat → Nat × Flags) (l : List (Nat × Flags)) :
    (pairUp op l).length = (l.length + 1) / 2 := by
  induction l using pairUp.induct with
  | case1 a b r ih => rw [pairUp, List.length_cons, ih, List.length_cons, List.length_cons]; omega
  | case2 l h =>
    rw [pairUp.eq_2 op l h]
    match l, h with
    | [], _ => simp
    | [a], _ => simp
    | a :: b :: r, h => exact absurd rfl (h a b r)

/-- What every level of the tree keeps of 2^n leaves holds of its root. -/
theorem treeReduce_keeps {op : Nat → Nat → Nat × Flags} {P : List (Nat × Flags) → Prop}
    (hP : ∀ l, P l → P (pairUp op l)) : ∀ (n : Nat) (l : List (Nat × Flags)), l.length = 2 ^ n → P l →
    P [treeReduce op n l]
  | 0, [a], _, h => h
  | n + 1, l, hl, h => by
    rw [treeReduce]
    refine treeReduce_keeps hP n _ ?_ (hP l h)
    rw [pairUp_length, hl, Nat.pow_succ]
    omega

/-- What an operator gives of two elements that have it, every element of the next level has. -/
theorem pairUp_forall {op : Nat → Nat → Nat × Flags} {Q : Nat × Flags → Prop}
    (hQ : ∀ a b, Q a → Q b → Q ((op a.1 b.1).1, a.2 ||| b.2 ||| (op a.1 b.1).2)) (l : List (Nat × Flags))
    (h : ∀ a ∈ l, Q a) : ∀ a ∈ pairUp op l, Q a := by
  induction l using pairUp.induct with
  | case1 a b r ih =>
    rw [pairUp, List.forall_mem_cons]
    rw [List.forall_mem_cons, List.forall_mem_cons] at h
    obtain ⟨ha, hb, hr⟩ := h
    exact ⟨hQ a b ha hb, ih hr⟩
  | case2 l hl => rwa [pairUp.eq_2 op l hl]

/-! ### Sums modulo 2^32 -/

/-- The sum of the lanes of a level, modulo 2^32. -/
def levelSum (c : BitVec 32) (l : List (Nat × Flags)) : BitVec 32 := l.foldl (fun a e => a + BitVec.ofNat 32 e.1) c

/-- A level of adders keeps the sum. -/
theorem levelSum_pairUp {op : Nat → Nat → Nat × Flags}
    (hop : ∀ x y, BitVec.ofNat 32 (op x y).1 = BitVec.ofNat 32 x + BitVec.ofNat 32 y) (l : List (Nat × Flags)) :
    ∀ c, levelSum c (pairUp op l) = levelSum c l := by
  simp only [levelSum]
  induction l using pairUp.induct with
  | case1 a b r ih =>
    intro c
    rw [pairUp, List.foldl_cons, ih, hop, List.foldl_cons, List.foldl_cons, BitVec.add_assoc]
  | case2 l hl => intro c; rw [pairUp.eq_2 op l hl]

/-- A lane of 32 bits that has raised no flag. -/
def IsWord (a : Nat × Flags) : Prop := a.1 < 2 ^ 32 ∧ a.2 = 0

/-- A tree of adders modulo 2^32 gives the sum of its leaves and raises no flag. -/
theorem treeReduce_sum {op : Nat → Nat → Nat × Flags} (hop : ∀ x y, op x y = ((x + y) % 2 ^ 32, 0)) {n : Nat}
    {l : List (Nat × Flags)} (hl : l.length = 2 ^ n) (hw : ∀ a ∈ l, IsWord a) :
    treeReduce op n l = ((levelSum 0 l).toNat, 0) := by
  have hadd (x y : Nat) : BitVec.ofNat 32 (op x y).1 = BitVec.ofNat 32 x + BitVec.ofNat 32 y := by
    rw [hop, ← BitVec.ofNat_add]
    exact BitVec.eq_of_toNat_eq (by simp)
  have hsum : levelSum 0 [treeReduce op n l] = levelSum 0 l :=
    treeReduce_keeps (P := fun k => levelSum 0 k = levelSum 0 l)
      (fun k hk => (levelSum_pairUp hadd k 0).trans hk) n l hl rfl
  have hroot : ∀ a ∈ [treeReduce op n l], IsWord a :=
    treeReduce_keeps (P := fun k => ∀ a ∈ k, IsWord a)
      (fun k => pairUp_forall (fun a b ⟨_, ha⟩ ⟨_, hb⟩ => by
        rw [hop, ha, hb]
        exact ⟨Nat.mod_lt _ (by decide), (by decide : (0 ||| 0 ||| 0 : Flags) = 0)⟩) k) n l hl hw
  obtain ⟨hlt, hfl⟩ := hroot _ (List.mem_singleton_self _)
  have hval : (BitVec.ofNat 32 (treeReduce op n l).1).toNat = (treeReduce op n l).1 := Nat.mod_eq_of_lt hlt
  have hzero : levelSum 0 [treeReduce op n l] = BitVec.ofNat 32 (treeReduce op n l).1 := BitVec.zero_add _
  rw [← hsum, hzero, hval, ← hfl]

/-! ### Greatest and least lanes -/

/-- The operator picks one of its operands, that above the other in an order, and raises no flag. -/
def Picks (le : Nat → Nat → Prop) (op : Nat → Nat → Nat × Flags) : Prop :=
  ∀ x y, op x y = (x, 0) ∧ le y x ∨ op x y = (y, 0) ∧ le x y

/-- Every element of a level has one above it in the next. -/
theorem pairUp_above {le : Nat → Nat → Prop} {op : Nat → Nat → Nat × Flags} (hle : ∀ x, le x x) (hop : Picks le op)
    (l : List (Nat × Flags)) : ∀ e ∈ l, ∃ a ∈ pairUp op l, le e.1 a.1 := by
  induction l using pairUp.induct with
  | case1 a b r ih =>
    have hab : le a.1 (op a.1 b.1).1 ∧ le b.1 (op a.1 b.1).1 := by
      rcases hop a.1 b.1 with ⟨h, hba⟩ | ⟨h, hab⟩ <;> rw [h]
      · exact ⟨hle _, hba⟩
      · exact ⟨hab, hle _⟩
    rw [pairUp, List.forall_mem_cons, List.forall_mem_cons]
    refine ⟨⟨_, List.mem_cons_self, hab.1⟩, ⟨_, List.mem_cons_self, hab.2⟩, fun e he => ?_⟩
    obtain ⟨c, hc, hec⟩ := ih e he
    exact ⟨c, List.mem_cons_of_mem _ hc, hec⟩
  | case2 l hl => rw [pairUp.eq_2 op l hl]; exact fun e he => ⟨e, he, hle _⟩

/-- A tree of picks gives the leaf above all leaves. -/
theorem treeReduce_picks {le : Nat → Nat → Prop} {op : Nat → Nat → Nat × Flags} (hle : ∀ x, le x x)
    (htrans : ∀ x y z, le x y → le y z → le x z) (hop : Picks le op) {n : Nat} {l : List (Nat × Flags)}
    (hl : l.length = 2 ^ n) (hfl : ∀ a ∈ l, a.2 = 0) :
    treeReduce op n l ∈ l ∧ ∀ e ∈ l, le e.1 (treeReduce op n l).1 := by
  have hmem : ∀ a ∈ [treeReduce op n l], a ∈ l :=
    treeReduce_keeps (P := fun k => ∀ a ∈ k, a ∈ l) (fun k => pairUp_forall (fun a b ha hb => by
      have hza : (a.1, (0 : Flags)) = a := by rw [← hfl a ha]
      have hzb : (b.1, (0 : Flags)) = b := by rw [← hfl b hb]
      have hz : (0 ||| 0 ||| 0 : Flags) = 0 := by decide
      rw [hfl a ha, hfl b hb]
      rcases hop a.1 b.1 with ⟨h, -⟩ | ⟨h, -⟩ <;> rw [h, hz]
      · rwa [hza]
      · rwa [hzb]) k) n l hl fun a ha => ha
  have habove : ∀ e ∈ l, ∃ a ∈ [treeReduce op n l], le e.1 a.1 :=
    treeReduce_keeps (P := fun k => ∀ e ∈ l, ∃ a ∈ k, le e.1 a.1) (fun k hk e he => by
      obtain ⟨a, ha, hea⟩ := hk e he
      obtain ⟨c, hc, hac⟩ := pairUp_above hle hop k a ha
      exact ⟨c, hc, htrans _ _ _ hea hac⟩) n l hl fun e he => ⟨e, he, hle _⟩
  exact ⟨hmem _ (List.mem_singleton_self _), fun e he => by simpa using habove e he⟩

/-! ### Reductions of integer lanes -/

theorem sx_eq_toInt {n : Nat} (hn : 0 < n) (x : Nat) : sx x n = (BitVec.ofNat n x).toInt := by
  rw [BitVec.toInt_eq_msb_cond, BitVec.msb_eq_getLsbD_last, ← BitVec.testBit_toNat, BitVec.toNat_ofNat, sx]
  simp [Nat.ne_of_gt hn]

/-- The order of integer lanes: signed or unsigned. -/
def laneKey (t : Vt) (x : Nat) : Int := match t with | .int => sx x 32 | _ => x

/-- x is at most y where the greatest lane is wanted, at least y where the least is. -/
def laneBelow (t : Vt) (wantMax : Bool) (x y : Nat) : Prop :=
  if wantMax then laneKey t x ≤ laneKey t y else laneKey t y ≤ laneKey t x

theorem laneBelow_refl (t : Vt) (wantMax : Bool) (x : Nat) : laneBelow t wantMax x x := by
  cases wantMax <;> exact Int.le_refl _

theorem laneBelow_trans (t : Vt) (wantMax : Bool) (x y z : Nat) (hxy : laneBelow t wantMax x y)
    (hyz : laneBelow t wantMax y z) : laneBelow t wantMax x z := by
  cases wantMax with
  | true => exact Int.le_trans hxy hyz
  | false => exact Int.le_trans hyz hxy

theorem laneMinMax_picks {t : Vt} (ht : ∀ f, t ≠ .fl f) (wantMax : Bool) :
    Picks (laneBelow t wantMax) (laneMinMax t wantMax) := by
  intro x y
  have hval : laneMinMax t wantMax x y = (if decide (laneKey t x ≤ laneKey t y) == wantMax then y else x, 0) := by
    cases t with
    | fl f => exact absurd rfl (ht f)
    | int => rfl
    | uint => simp [laneMinMax, laneKey]
  rw [hval]
  by_cases h : laneKey t x ≤ laneKey t y
  · cases wantMax with
    | true => exact .inr ⟨by simp [h], h⟩
    | false => exact .inl ⟨by simp [h], h⟩
  · have hyx : laneKey t y ≤ laneKey t x := Int.le_of_not_le h
    cases wantMax with
    | true => exact .inl ⟨by simp [h], hyx⟩
    | false => exact .inr ⟨by simp [h], hyx⟩

/-- The scalar register's form of a lane that an integer reduction gives (R143). -/
def scalarOf (t : Vt) (x : BitVec 32) : V512 := wide (if t = .int then x.signExtend 64 else x.setWidth 64)

/-- The vector and the flags that a reduction delivers. -/
def reduceResult (t : Vt) (op : Vt → Nat → Nat → Nat × Flags) (v : V512) : V512 × Flags :=
  (BitVec.ofNat 512 (reduceV t op v).1, (reduceV t op v).2)

theorem leaves_int {t : Vt} (ht : ∀ f, t ≠ .fl f) (v : V512) : leaves t v = (upto 16).map fun i => (lane 32 v i, 0) := by
  cases t with
  | fl f => exact absurd rfl (ht f)
  | int => rfl
  | uint => rfl

theorem leaves_int_length {t : Vt} (ht : ∀ f, t ≠ .fl f) (v : V512) : (leaves t v).length = 16 := by
  rw [leaves_int ht, upto, List.length_map, List.length_range]

/-- An integer reduction delivers the root of its tree, extended, and no flag. -/
theorem reduceResult_int {t : Vt} (ht : ∀ f, t ≠ .fl f) (op : Vt → Nat → Nat → Nat × Flags) (v : V512) {x : Nat}
    (h : treeReduce (op t) 4 (leaves t v) = (x, 0)) (hx : x < 2 ^ 32) :
    reduceResult t op v = (scalarOf t (BitVec.ofNat 32 x), 0) := by
  have hkind : treeType t = t := by
    cases t with
    | fl f => exact absurd rfl (ht f)
    | int => rfl
    | uint => rfl
  have hroot : treeReduce (op (treeType t)) (if (leaves t v).length = 32 then 5 else 4) (leaves t v) = (x, 0) := by
    rw [leaves_int_length ht, hkind]; exact h
  cases t with
  | fl f => exact absurd rfl (ht f)
  | int =>
    have hext : wrap (sx x 32) 64 = ((BitVec.ofNat 32 x).signExtend 64).toNat := by
      rw [wrap, ← BitVec.toNat_ofInt, sx_eq_toInt (by decide)]; rfl
    simp only [reduceResult, reduceV, hroot, hext, scalarOf, wide, if_true, BitVec.ofNat_toNat]
  | uint =>
    have hext : x = ((BitVec.ofNat 32 x).setWidth 64).toNat := by
      rw [BitVec.toNat_setWidth, BitVec.toNat_ofNat]; omega
    have hwide : BitVec.ofNat 512 x = wide ((BitVec.ofNat 32 x).setWidth 64) := by
      rw [wide, ← BitVec.ofNat_toNat, ← hext]
    simp only [reduceResult, reduceV, hroot, hwide, scalarOf, reduceCtorEq, if_false]

theorem reduceResult_float (f : Ft) (op : Vt → Nat → Nat → Nat × Flags) (v : V512) :
    reduceResult (.fl f) op v = treeOf (op (.fl .f32)) f (.fl f) v := by
  cases f <;> rfl

/-- A reduction delivers its result (R132, R143). -/
theorem exec_reduction {s : State} {i : Instr} {t : Vt} {keep : Bool} {v : V512} {d : Option RegName}
    (c : V512 → State → Commit) (op : State → Vt → Nat → Nat → Nat × Flags) (hr : exec i s = runMove i c s)
    (hc : ∀ s, c v s = vxReduce s t keep (op s) v) (hs : Ready s i v) (hd : destOf s .s keep .vxTo = some d) :
    exec i s = .next (vecDelivers s i .s d (reduceResult t (op (s.chargeSlot i)) v).1
      (reduceResult t (op (s.chargeSlot i)) v).2 (treeLat t)) :=
  hr.trans (runMove_vxDeliver (r := reduceResult t (op (s.chargeSlot i)) v) hs hd (hc _))

/-- A sum of integer lanes. -/
theorem reduceResult_sum {t : Vt} (ht : ∀ f, t ≠ .fl f) (rm : Rm) (v : V512) :
    reduceResult t (fun t => laneAdd t rm) v =
      (scalarOf t ((List.range 16).foldl (fun a j => a + BitVec.ofNat 32 (lane 32 v j)) 0), 0) := by
  have hop (x y : Nat) : laneAdd t rm x y = ((x + y) % 2 ^ 32, 0) := by
    cases t with
    | fl f => exact absurd rfl (ht f)
    | int => rfl
    | uint => rfl
  have hword : ∀ a ∈ leaves t v, IsWord a := by
    rw [leaves_int ht, List.forall_mem_map]
    exact fun j _ => ⟨lane_lt 32 v j, rfl⟩
  have hsum : levelSum 0 (leaves t v) = (List.range 16).foldl (fun a j => a + BitVec.ofNat 32 (lane 32 v j)) 0 := by
    rw [leaves_int ht, levelSum, List.foldl_map]; rfl
  rw [reduceResult_int ht _ v (treeReduce_sum hop (leaves_int_length ht v) hword) (BitVec.isLt _), hsum,
    BitVec.ofNat_toNat, BitVec.setWidth_eq]

/-- The greatest or least of integer lanes. -/
theorem reduceResult_minMax {t : Vt} (ht : ∀ f, t ≠ .fl f) (wantMax : Bool) (v : V512) :
    ∃ i, i < 16 ∧ reduceResult t (fun t => laneMinMax t wantMax) v = (scalarOf t (BitVec.ofNat 32 (lane 32 v i)), 0) ∧
      ∀ j, j < 16 → laneBelow t wantMax (lane 32 v j) (lane 32 v i) := by
  have hfl : ∀ a ∈ leaves t v, a.2 = 0 := by
    rw [leaves_int ht, List.forall_mem_map]
    exact fun _ _ => rfl
  obtain ⟨hmem, habove⟩ := treeReduce_picks (n := 4) (laneBelow_refl t wantMax) (laneBelow_trans t wantMax)
    (laneMinMax_picks ht wantMax) (leaves_int_length ht v) hfl
  generalize hroot : treeReduce (laneMinMax t wantMax) 4 (leaves t v) = root at hmem habove
  rw [leaves_int ht] at hmem habove
  obtain ⟨i, hi, rfl⟩ := List.mem_map.1 hmem
  refine ⟨i, List.mem_range.1 hi, reduceResult_int ht _ v hroot (lane_lt 32 v i), fun j hj => ?_⟩
  exact habove (lane 32 v j, 0) (List.mem_map_of_mem (List.mem_range.2 hj))

theorem scalarOf_uint_toNat (x : BitVec 32) : (scalarOf .uint x).toNat = x.toNat := by
  have hx := x.isLt
  simp only [scalarOf, wide, reduceCtorEq, if_false, BitVec.toNat_setWidth]
  omega

/-- The greatest or least of unsigned lanes, read from the scalar. -/
theorem reduceResult_minMax_uint (wantMax : Bool) (v : V512) :
    let r := (reduceResult .uint (fun t => laneMinMax t wantMax) v).1
    (∃ i, i < 16 ∧ r = scalarOf .uint (BitVec.ofNat 32 (lane 32 v i))) ∧
    ∀ j, j < 16 → if wantMax then (BitVec.ofNat 32 (lane 32 v j)).toNat ≤ r.toNat
      else r.toNat ≤ (BitVec.ofNat 32 (lane 32 v j)).toNat := by
  obtain ⟨i, hi, hr, hbelow⟩ := reduceResult_minMax (t := .uint) (fun _ => by simp) wantMax v
  have hval (j : Nat) : (BitVec.ofNat 32 (lane 32 v j)).toNat = lane 32 v j := Nat.mod_eq_of_lt (lane_lt 32 v j)
  simp only [hr, scalarOf_uint_toNat, hval]
  refine ⟨⟨i, hi, rfl⟩, fun j hj => ?_⟩
  cases wantMax <;> exact Int.ofNat_le.1 (hbelow j hj)

/-- The greatest or least of signed lanes. -/
theorem reduceResult_minMax_int (wantMax : Bool) (v : V512) :
    ∃ i, i < 16 ∧
      (reduceResult .int (fun t => laneMinMax t wantMax) v).1 = scalarOf .int (BitVec.ofNat 32 (lane 32 v i)) ∧
      ∀ j, j < 16 → if wantMax then (BitVec.ofNat 32 (lane 32 v j)).toInt ≤ (BitVec.ofNat 32 (lane 32 v i)).toInt
        else (BitVec.ofNat 32 (lane 32 v i)).toInt ≤ (BitVec.ofNat 32 (lane 32 v j)).toInt := by
  obtain ⟨i, hi, hr, hbelow⟩ := reduceResult_minMax (t := .int) (fun _ => by simp) wantMax v
  refine ⟨i, hi, by rw [hr], fun j hj => ?_⟩
  simp only [← sx_eq_toInt (n := 32) (by decide)]
  exact hbelow j hj

/-- A reduction to the greatest or least lane, of every lane type. -/
theorem reduceResult_minMax_cases (t : Vt) (wantMax : Bool) (v : V512) :
    let r := reduceResult t (fun t => laneMinMax t wantMax) v
    let b (j : Nat) : BitVec 32 := BitVec.ofNat 32 (lane 32 v j)
    ((∀ f, t ≠ .fl f) → r.2 = 0) ∧
    (t = .uint → (∃ j, j < 16 ∧ r.1 = scalarOf t (b j)) ∧
      ∀ j, j < 16 → if wantMax then (b j).toNat ≤ r.1.toNat else r.1.toNat ≤ (b j).toNat) ∧
    (t = .int → ∃ i, i < 16 ∧ r.1 = scalarOf t (b i) ∧
      ∀ j, j < 16 → if wantMax then (b j).toInt ≤ (b i).toInt else (b i).toInt ≤ (b j).toInt) ∧
    (∀ f, t = .fl f → r = treeOf (laneMinMax (.fl .f32) wantMax) f t v) := by
  refine ⟨fun ht => ?_, ?_, ?_, ?_⟩
  · obtain ⟨i, -, hr, -⟩ := reduceResult_minMax ht wantMax v
    rw [hr]
  · rintro rfl
    exact reduceResult_minMax_uint wantMax v
  · rintro rfl
    exact reduceResult_minMax_int wantMax v
  · rintro f rfl
    exact reduceResult_float f _ v

section Triggers

variable {s : State} {t : Vt} {m : Mv} {v : V512} {d : Option RegName}

theorem exec_vrsum (hr : Ready s (.vrsum t m) v) (hd : destOf s .s m.k .vxTo = some d) :
    let r := reduceResult t (fun t => laneAdd t (mode s)) v
    exec (.vrsum t m) s = .next (vecDelivers s (.vrsum t m) .s d r.1 r.2 (treeLat t)) := by
  have h := exec_reduction (commitVrsum t m.k) (fun s t => laneAdd t s.me.rm) rfl (fun _ => rfl) hr hd
  rwa [State.chargeSlot_me_rm] at h

theorem exec_vrmax (hr : Ready s (.vrmax t m) v) (hd : destOf s .s m.k .vxTo = some d) :
    let r := reduceResult t (fun t => laneMinMax t true) v
    exec (.vrmax t m) s = .next (vecDelivers s (.vrmax t m) .s d r.1 r.2 (treeLat t)) :=
  exec_reduction (commitVrmax t m.k) (fun _ t => laneMinMax t true) rfl (fun _ => rfl) hr hd

theorem exec_vrmin (hr : Ready s (.vrmin t m) v) (hd : destOf s .s m.k .vxTo = some d) :
    let r := reduceResult t (fun t => laneMinMax t false) v
    exec (.vrmin t m) s = .next (vecDelivers s (.vrmin t m) .s d r.1 r.2 (treeLat t)) :=
  exec_reduction (commitVrmin t m.k) (fun _ t => laneMinMax t false) rfl (fun _ => rfl) hr hd

end Triggers

end Sys2Proof.Machine
end

section
/-! SUPPORT. The statement on conversions, narrowing, widening and reductions of the vector unit. -/

namespace Sys2Proof.Machine

open Sys2Proof.Claims

/-- Settles O33: every conversion maps its lanes, a block is decoded or encoded in place, and the fixed tree keeps the
sum of integer leaves and the leaf above all others. -/
theorem vectorConversionsAndReductions : Obligations.VectorConversionsAndReductions := by
  refine ⟨vcvt_gives, fun s ks m v x fv sv d hf hs hc hlt hd => ?_, ?_, ?_, fun s t m v d hd => ?_⟩
  · exact ⟨fun hr => exec_vwiden hr hf hs hc hlt hd, fun hr hx => exec_vnarrow hr hx hf hs hc hlt hd⟩
  · exact fun s ks m v fv sv hr hf hs hc => exec_vwiden_inconsistent hr hf hs hc
  · exact fun s ks m v x fv sv hr hx hf hs hc => exec_vnarrow_inconsistent hr hx hf hs hc
  · refine ⟨fun hr => ⟨_, _, exec_vrsum hr hd, fun ht => ?_, ?_⟩,
      fun hr => ⟨_, _, exec_vrmax hr hd, reduceResult_minMax_cases t true v⟩,
      fun hr => ⟨_, _, exec_vrmin hr hd, reduceResult_minMax_cases t false v⟩⟩
    · rw [reduceResult_sum ht]
      exact ⟨rfl, rfl⟩
    · rintro f rfl
      exact reduceResult_float f _ v

end Sys2Proof.Machine
end

section
/-! SUPPORT. Slots that run, are barred, or freeze: how a slot's move is executed, what a frozen cycle changes, and which
class a slot is charged to (R59, R65, R90, R165, R167, R281). -/

namespace Sys2Proof.Machine

open Sys2Proof.Claims

/-! ### Running a slot's move (R65) -/

/-- Moves whose effect is at the end of their bundle. -/
def endsBundle : Instr → Bool
  | .yield _ | .wait _ | .endStrand _ | .tret _ | .uiret _ | .clkdiv _ _ | .hbar _ | .hend _ => true
  | _ => false

/-- A move that a slot may hold runs by its slot's commit, and goes on to its bundle's end where its effect is there. -/
theorem exec_of_encodeSlot {i : Instr} (s : State) (h : encodeSlot i ≠ none) :
    exec i s = bif endsBundle i then runMoveEnd i (commitMove i) s else runMove i (commitMove i) s := by
  cases i with
  | bundleExecute | intResultDelivery | loadReply | sliceOpPerform | vectorResultDelivery | gatherLaneReply
  | transferRetire | transferStop | arrayRetire | drainRowPush | drainRetire | mldcLand | sedgeLineArrive
  | sedgeIssueCycle | sedgeRowPush | sedgePassEnd | sedgePassFail | copyLineReply | copyComplete | gatherOpComplete
  | uiTake | pipeEntryArrive | phaseStart | linkWordArrive | phaseEnd | tkResultDelivery | revoke | ecsetPreset
  | trapEntry | strandEndFault | dblfault | wdfreeze | pipewd | segmentExpanded | pickup | gangRelease
  | sliceExpire | contextSwitch | sliceovr | launchNop | launch | launchGang | streamOpen | streamClose
  | launchUnpark | launchStartDue | recordRelease | commandDoorbell | hostRegisterWrite | gtset | bkenEnable
  | bkenDisable | snapshotExport | snapshotImport | snapshotUnpin | attest | energyReading | fetchReading | rrel
  | replay | totalClr | decodeJob | decodeJobDone | encoderEntryArrive | encoderTakeEntry | frameCoded
  | hostWriteArrive | retentionEntry | retentionWake | sliceTagError | ptmExchange | ptmHoldover | pressureRaise
  | pressureLower | ageingCheck | harvest | thermwarn | emergencySave | railCut | thermalTripClear | powerUp
  | sliceAccessServe | hostSnoop | emptyLaunchComplete =>
    exact absurd rfl h
  | _ => rfl

/-- A move whose source is not ready freezes its bundle (R65). -/
theorem exec_of_slotValue_freeze {i : Instr} {s : State} {w : Wait} (h : encodeSlot i ≠ none)
    (hv : s.slotValue i = .freeze w) : exec i s = .next (s.freeze [w] s.me.bs.slot) := by
  rw [exec_of_encodeSlot s h]
  cases endsBundle i with
  | true => simp only [cond_true, runMoveEnd, hv]
  | false => simp only [cond_false, runMove, hv]

/-- A move that a transfer phase bars raises ILLOPD (R281). -/
theorem exec_of_phaseBars {i : Instr} {s : State} {v : V512} (h : encodeSlot i ≠ none)
    (hv : s.slotValue i = .val v) (hp : s.phaseBars i = true) :
    exec i s = .next (s.fault .illopd none s.me.bs.slot true) := by
  have hbar (c : Commit) : s.guardMove i c = .raise .illopd none := by simp only [State.guardMove, hp, if_true]
  rw [exec_of_encodeSlot s h]
  cases endsBundle i with
  | true => simp only [cond_true, runMoveEnd, hv, hbar]
  | false => simp only [cond_false, runMove, hv, hbar]

/-! ### Frozen cycles (R167) -/

/-- The clocks of a core's matrix pipes and of its Sedge engine run on. -/
def Core.tickEngines (k : Core) (mx sg : Bool) : Core :=
  { k with
    mx := { k.mx with clk := k.mx.clk + boolCode mx }
    sg := { k.sg with clk := k.sg.clk + boolCode sg } }

/-- A cycle of a core's engines moves their clocks, and else only schedules what falls due: what no scheduling changes
reads as after the clocks alone. -/
theorem State.runEngines_reads {α : Type} (f : State → α) (hf : ∀ s t i, f (s.schedule t i) = f s) (s : State)
    (c : CoreId) (mx sg : Bool) : f (s.runEngines c mx sg) = f (s.onCore c (·.tickEngines mx sg)) := by
  have hite (s : State) (p : Prop) [Decidable p] (t : Nat) (i : Instr) :
      f (if p then s.schedule t i else s) = f s := by
    split
    · exact hf s t i
    · rfl
  simp only [State.runEngines]
  split
  · simp only [hite]
    rfl
  · split <;> simp only [hf, hite] <;> rfl

/-- A freeze is one frozen cycle of the executing core, in which its engines may run. -/
theorem State.freeze_me (s : State) (w : List Wait) (slot : Nat) :
    ∃ mx sg, (s.freeze w slot).me = (s.me.frozenCycle w slot (s.waitVa w)).tickEngines mx sg :=
  ⟨_, _, (State.runEngines_reads State.me (fun _ _ _ => rfl) ..).trans
    ((State.me_onMe ..).trans (congrArg (Core.tickEngines · _ _) (State.me_onMe ..)))⟩

theorem State.freeze_mem (s : State) (w : List Wait) (slot : Nat) : (s.freeze w slot).mem = s.mem :=
  State.runEngines_reads State.mem (fun _ _ _ => rfl) ..

/-- What a freeze counts and what it leaves (R65, R167). -/
theorem State.freeze_frame (s : State) (w : List Wait) (slot : Nat) :
    let t := s.freeze w slot
    t.me.time = s.me.time + s.me.cl ∧ t.me.ccyc = s.me.ccyc + 1 ∧ t.me.frz = s.me.frz + 1 ∧
    t.me.rf = s.me.rf ∧ t.me.ports = s.me.ports ∧ t.me.lat = s.me.lat ∧ t.mem = s.mem ∧ t.me.spad = s.me.spad := by
  obtain ⟨mx, sg, hme⟩ := s.freeze_me w slot
  simp only [hme, State.freeze_mem]
  exact ⟨rfl, rfl, rfl, rfl, rfl, rfl, trivial, rfl⟩

/-! ### Freezes of a slot's commit (R65, R165) -/

/-- A move that is ready and whose commit waits freezes its bundle. -/
theorem freezes_of_commit {i : Instr} {s : State} {v : V512} {c : V512 → State → Commit} (hs : Ready s i v)
    (hr : exec i s = runMove i c s) (hc : ∃ w, c v (s.chargeSlot i) = .freeze w) : Freezes i s := by
  obtain ⟨hv, hp, ha⟩ := hs
  obtain ⟨w, hw⟩ := hc
  exact ⟨w, hr.trans (runMove_freeze hv hp ha hw)⟩

/-- A port reads the same in the state the slot was charged in. -/
theorem needPort_chargeSlot {s : State} {i : Instr} {p : Port} {x : V512} (f : V512 → Commit)
    (h : s.me.port p = some x) : needPort (s.chargeSlot i) p f = f x :=
  needPort_some f (by rwa [State.chargeSlot_me_port])

/-- A result whose register awaits a load is not set in flight: its trigger waits (R165). -/
theorem deliver_of_destAwaited {s : State} {i : Instr} {cls : ResClass} {dp : Port} (u : FUnit) (v : V512) (fl : Flags)
    (lat : Nat) (wake : Option Instr) (h : destAwaited s cls dp) :
    ∃ w, deliver (s.chargeSlot i) u cls false dp v fl lat wake = .freeze w := by
  obtain ⟨d, n, hport, hn, hload⟩ := h
  have hd : (BitVec.ofNat 8 d.toNat).toNat = d.toNat % 256 := BitVec.toNat_ofNat ..
  simp only [deliver, withDest, State.chargeSlot_me_port, hport, hd, hn, State.chargeSlot_me_vrb,
    State.chargeSlot_me_prb, State.chargeSlot_me_fl, hload, Bool.false_eq_true, if_false, if_true]
  exact ⟨_, rfl⟩

/-! ### Energy classes (R90) -/

/-- The ports of the integer units hold multiplies and divides from 4 to 7 (R92). -/
theorem triggerClass_int (u : IntUnit) {n : Nat} (hn : n < 0x20) (f : Nat) :
    triggerClass (u.base + n) f = if 4 ≤ n ∧ n ≤ 7 then 3 else 2 := by
  have hmod : (u.base + n) % 0x20 = n := by cases u <;> simp only [IntUnit.base] <;> omega
  have hlt : u.base + n < 0x140 := by cases u <;> simp only [IntUnit.base] <;> omega
  rw [triggerClass, if_pos hlt, hmod]

/-- A slot's class is the one that R90's table and the Cls entries give its move. -/
theorem slotClass_of_energyClass {i : Instr} {k : Core} {n : Fin 16} (h : energyClass i k = some n) :
    slotClass i k % 16 = n := by
  cases i with
  | add u _ _ | sub u _ _ | mul u _ _ | mulh u _ _ | div u _ _ | rem u _ _ | and u _ _ | or u _ _ | xor u _ _
  | andn u _ _ | shl u _ _ | shr u _ _ | sar u _ _ | rol u _ _ | min u _ _ | max u _ _ | cmp u _ _ | clz u _ _
  | ctz u _ _ | popc u _ _ | ext u _ _ | bswap u _ _ | adds u _ _ | subs u _ _ | pass u _ _ =>
    cases h
    exact congrArg (· % 16) (triggerClass_int u (by decide) _)
  | vadd t _ | vsub t _ | vmul t _ | vmin t _ | vmax t _ =>
    cases h
    rcases t with f | _ | _
    · cases f <;> rfl
    · rfl
    · rfl
  | vfma t _ | vfms t _ | vfnma t _ => cases h; cases t <;> rfl
  | mmac =>
    obtain ⟨g, hcfg, rfl⟩ := Option.map_eq_some_iff.1 h
    simp only [slotClass, mmacClass, hcfg]
    split <;> rfl
  | _ => cases h <;> rfl

/-- A slot is charged the weight of its class. -/
theorem chargeSlot_of_energyClass {i : Instr} {s : State} {n : Fin 16} (h : energyClass i s.me = some n) :
    s.chargeSlot i = s.chargeUnits s.cur (s.die.cw[n]).toNat := by
  have hn : (⟨slotClass i s.me % 16, Nat.mod_lt _ (by decide)⟩ : Fin 16) = n := Fin.ext (slotClass_of_energyClass h)
  rw [State.chargeSlot, hn]
  rfl

/-! ### The counter (R256, R258) -/

theorem State.chargeUnits_of_satf {s : State} {c : CoreId} {w : Nat} (h : (s.core c).pctx.satf = true) :
    s.chargeUnits c w = s := if_pos h

theorem State.chargeUnits_of_room {s : State} {c : CoreId} {w : Nat} (h : (s.core c).pctx.satf = false)
    (hw : (s.core c).pctx.ec.toNat + w < 2 ^ 56) :
    s.chargeUnits c w = s.onCore c fun k => k.onPctx fun q => { q with ec := q.ec + BitVec.ofNat 56 w } := by
  simp only [State.chargeUnits, h, hw, Bool.false_eq_true, if_false, if_true, BitVec.ofNat_add, BitVec.ofNat_toNat,
    BitVec.setWidth_eq]
  rfl

theorem State.chargeUnits_of_full {s : State} {c : CoreId} {w : Nat} (h : (s.core c).pctx.satf = false)
    (hw : 2 ^ 56 ≤ (s.core c).pctx.ec.toNat + w) :
    s.chargeUnits c w = (s.onCore c fun k => k.onPctx fun q =>
      { q with ec := BitVec.allOnes 56, satf := true }).postEvent (s.core c).ctx 0x84 0x0300 c.toNat := by
  simp only [State.chargeUnits, h, Nat.not_lt.2 hw, Bool.false_eq_true, if_false]
  rfl

end Sys2Proof.Machine
end

section
/-! SUPPORT. The statement on the charge of a slot and the freezes of its bundle. -/

namespace Sys2Proof.Machine

open Sys2Proof.Claims

section Triggers

variable {s : State} {u : IntUnit} {f : Wd} {g : Sw} {m : Mv} {v x : V512}

/-! ### Triggers whose result has no place yet (R165) -/

theorem add_freezes (hk : m.k = false) (hs : Ready s (.add u f m) v) (hx : s.me.port (intX u) = some x)
    (hd : destAwaited s .s (intTo u)) : Freezes (.add u f m) s := by
  refine freezes_of_commit (c := commitAdd u f m.k) hs rfl ?_
  rw [commitAdd, needPort_chargeSlot _ hx, hk]
  exact deliver_of_destAwaited _ _ _ _ _ hd

theorem vand_freezes (hk : m.k = false) (hs : Ready s (.vand m) v) (hx : s.me.port .vxX = some x)
    (hd : destAwaited s .v .vxTo) : Freezes (.vand m) s := by
  refine freezes_of_commit (c := commitVand m.k) hs rfl ?_
  rw [commitVand, vxBits, needPort_chargeSlot _ hx, hk]
  exact deliver_of_destAwaited _ _ _ _ _ hd

theorem hinfo_freezes {f : HField} (hk : m.k = false) (hs : Ready s (.hinfo f m) v) (hd : destAwaited s .s .lsTo) :
    Freezes (.hinfo f m) s := by
  refine freezes_of_commit (c := commitHinfo f m.k) hs rfl ?_
  rw [hk]
  exact deliver_of_destAwaited _ _ _ _ _ hd

theorem lcnt_freezes (hk : m.k = false) (hs : Ready s (.lcnt m) v) (hl : s.me.loops[sval v % 4]?.isSome = true)
    (hd : destAwaited s .s .brTo) : Freezes (.lcnt m) s := by
  obtain ⟨e, he⟩ := Option.isSome_iff_exists.1 hl
  refine freezes_of_commit (c := commitLcnt m.k) hs rfl ?_
  simp only [commitLcnt, State.chargeSlot_me_loops, he, hk]
  exact deliver_of_destAwaited _ _ _ _ _ hd

theorem ecnt_freezes (hk : m.k = false) (hs : Ready s (.ecnt m) v) (hd : destAwaited s .s .syTo) :
    Freezes (.ecnt m) s := by
  refine freezes_of_commit (c := commitEcnt m.k) hs rfl ?_
  rw [hk]
  exact deliver_of_destAwaited _ _ _ _ _ hd

/-! ### Registers and units that are busy (R59, R109, R167, R170, R184, R208) -/

theorem moveToRegister_freezes {src : Src} {dst : RegName} (hs : Ready s (.moveToRegister src dst) v)
    (hb : (groupNames s.me.vrb s.me.prb dst.toNat (moveDest src dst)).any s.me.busyReg = true) :
    Freezes (.moveToRegister src dst) s := by
  refine freezes_of_commit (c := commitMoveToRegister src dst) hs rfl ⟨_, if_pos ?_⟩
  obtain ⟨pc', hme⟩ := s.chargeSlot_me_form (.moveToRegister src dst)
  rw [hme]
  exact hb

/-- A division waits for its unit's divider (R109). -/
theorem divDeliver_of_busy {i : Instr} (keep : Bool) (r : Nat) (hb : dividerBusy s.me u = true) :
    divDeliver (s.chargeSlot i) u g keep r = .freeze .reg :=
  if_pos (by rwa [dividerBusy, State.chargeSlot_me_fl])

theorem div_freezes (hs : Ready s (.div u g m) v) (hx : s.me.port (intX u) = some x)
    (hb : dividerBusy s.me u = true) : Freezes (.div u g m) s :=
  freezes_of_commit (c := commitDiv u g m.k) hs rfl
    ⟨_, (needPort_chargeSlot _ hx).trans (divDeliver_of_busy _ _ hb)⟩

theorem rem_freezes (hs : Ready s (.rem u g m) v) (hx : s.me.port (intX u) = some x)
    (hb : dividerBusy s.me u = true) : Freezes (.rem u g m) s :=
  freezes_of_commit (c := commitRem u g m.k) hs rfl
    ⟨_, (needPort_chargeSlot _ hx).trans (divDeliver_of_busy _ _ hb)⟩

theorem sgPass_freezes (hs : Ready s (.sgPass m) v) (hb : s.me.sg.pass.isSome = true) : Freezes (.sgPass m) s :=
  freezes_of_commit (c := commitSgPass) hs rfl ⟨_, if_pos (by rwa [State.chargeSlot_me_sg])⟩

theorem cpGo_freezes {out : Bool} (hs : Ready s (.cpGo out m) v) (ha : s.me.cp.active.isSome = true)
    (hp : s.me.cp.pending.isSome = true) : Freezes (.cpGo out m) s :=
  freezes_of_commit (c := commitCpGo out) hs rfl
    ⟨_, if_pos (by rw [State.chargeSlot_me_cp, ha, hp]; rfl)⟩

theorem mst_freezes (hs : Ready s (.mst m) v)
    (hb : (s.chargeSlot (.mst m)).me.mx.hazard .xfer [tileOf v.toNat] [] = true) : Freezes (.mst m) s :=
  freezes_of_commit (c := commitMst) hs rfl ⟨_, if_pos hb⟩

end Triggers

/-- Settles O9: a charge adds its class's weight until the counter saturates; whatever a slot waits for freezes its
bundle for a cycle that no register, memory byte or port sees; a barred move raises ILLOPD. -/
theorem slotsChargeOrFreeze : Obligations.SlotsChargeOrFreeze := by
  refine ⟨fun i s n => chargeSlot_of_energyClass, fun s src dst v => moveToRegister_freezes,
    fun s m v x hk => ⟨?_, ?_, ?_, ?_, ?_⟩, fun s m v x => ⟨?_, ?_, ?_, ?_⟩, fun s c w => ⟨?_, ?_, ?_⟩,
    fun i s hi => ⟨?_, ?_, ?_⟩⟩
  · exact fun u f => add_freezes hk
  · exact vand_freezes hk
  · exact fun f => hinfo_freezes hk
  · exact lcnt_freezes hk
  · exact ecnt_freezes hk
  · exact fun u g hx hb => ⟨fun hs => div_freezes hs hx hb, fun hs => rem_freezes hs hx hb⟩
  · exact sgPass_freezes
  · exact fun out => cpGo_freezes
  · exact mst_freezes
  · exact State.chargeUnits_of_satf
  · exact State.chargeUnits_of_room
  · exact State.chargeUnits_of_full
  · exact fun w => exec_of_slotValue_freeze hi
  · exact fun v => exec_of_phaseBars hi
  · rintro w t rfl
    exact s.freeze_frame [w] s.me.bs.slot

end Sys2Proof.Machine
end

section
/-! SUPPORT. The statement on branches: what values name a bundle, and what each branch does with them (R94, R110 to
R112). -/

namespace Sys2Proof.Machine

open Sys2Proof.Claims

/-! ### Targets (R94, R110) -/

/-- An `abs` value names a bundle if bit 63 is clear, bits [4:0] are 0 and the address is not. -/
theorem branchTarget_abs (k : Core) {v : Nat} (hv : v < 2 ^ 64) :
    branchTarget k .abs v = if v < 2 ^ 63 ∧ v % 32 = 0 ∧ v % 2 ^ 56 ≠ 0
      then some ⟨BitVec.ofNat 56 (v % 2 ^ 56), BitVec.ofNat 7 (v / 2 ^ 56)⟩ else none := by
  have hbit : bit v 63 = decide (2 ^ 63 ≤ v) := by
    rw [bit, Nat.testBit_eq_decide_div_mod_eq, decide_eq_decide]
    omega
  have hbad : badAbs v = true ↔ ¬(v < 2 ^ 63 ∧ v % 32 = 0 ∧ v % 2 ^ 56 ≠ 0) := by
    simp only [badAbs, hbit, Bool.or_eq_true, decide_eq_true_eq, bne_iff_ne, beq_iff_eq]
    omega
  have hseg : BitVec.ofNat 56 (v % 2 ^ 56) = BitVec.ofNat 56 v := BitVec.eq_of_toNat_eq (by simp)
  simp only [branchTarget, hbad, ite_not, hseg]
  rfl

/-- A `seg` value names a bundle of the executing segment. -/
theorem branchTarget_seg {k : Core} (hk : k.bcnt ≤ 128) (v : Nat) :
    branchTarget k .seg v = if v < k.bcnt then some ⟨k.pc.seg, BitVec.ofNat 7 v⟩ else none := by
  have hlt : v < k.bcnt ∧ v < 128 ↔ v < k.bcnt := and_iff_left_of_imp fun h => Nat.lt_of_lt_of_le h hk
  simp only [branchTarget, hlt]

/-! ### Branches in the state their slot was charged in -/

theorem branchTarget_chargeSlot (s : State) (i : Instr) (f : TForm) (v : Nat) :
    branchTarget (s.chargeSlot i).me f v = branchTarget s.me f v := by
  obtain ⟨pc', hme⟩ := s.chargeSlot_me_form i
  rw [hme]
  rfl

theorem following_chargeSlot (s : State) (i : Instr) : (s.chargeSlot i).me.following = s.me.following := by
  obtain ⟨pc', hme⟩ := s.chargeSlot_me_form i
  rw [hme]
  rfl

theorem sval_eq_zero_iff (x : V512) : sval x = 0 ↔ lo64 x = 0 := by
  rw [← BitVec.toNat_inj]
  simp [sval, lo64]

/-- The link of a call as it is moved (R112). -/
theorem ofNat_link (k : Core) :
    BitVec.ofNat 512 k.link = wide (if k.following.seg = 0 then 0 else k.following.abs) := by
  have hlink : k.link = (if k.following.seg = 0 then 0 else k.following.abs).toNat := by
    rw [Core.link]
    split <;> rfl
  rw [hlink, BitVec.ofNat_toNat, wide]

section Triggers

variable {s : State} {f : TForm} {m : Mv} {v x : V512} {d : Target}

theorem exec_jmp (hs : Ready s (.jmp f m) v) (ht : branchTarget s.me f (sval v) = some d) :
    exec (.jmp f m) s = .next (takeBranch (s.chargeSlot (.jmp f m)) d).flushDeferred := by
  obtain ⟨hv, hp, ha⟩ := hs
  exact runMove_ok (f := commitJmp f) hv hp ha (by simp only [commitJmp, branchTarget_chargeSlot, ht])

theorem exec_jmp_illopd (hs : Ready s (.jmp f m) v) (ht : branchTarget s.me f (sval v) = none) :
    exec (.jmp f m) s = .next (s.fault .illopd none s.me.bs.slot true) := by
  obtain ⟨hv, hp, ha⟩ := hs
  exact runMove_raise (f := commitJmp f) hv hp ha (by simp only [commitJmp, branchTarget_chargeSlot, ht])

/-- A branch that its condition decides is taken, or leaves the next bundle as it was. -/
theorem ite_takeBranch (c : State) (p : Prop) [Decidable p] (d : Target) :
    (if p then takeBranch c d else c) =
      c.onMe fun k => { k with bs := { k.bs with branch := if p then some d else k.bs.branch } } := by
  split
  · rfl
  · exact (State.onMe_id c).symm

theorem exec_bz (hs : Ready s (.bz f m) v) (hx : s.me.port .brX = some x)
    (ht : branchTarget s.me f (sval v) = some d) :
    exec (.bz f m) s = .next (((s.chargeSlot (.bz f m)).onMe fun k =>
      { k with bs := { k.bs with branch := if lo64 x = 0 then some d else k.bs.branch } }).flushDeferred) := by
  obtain ⟨hv, hp, ha⟩ := hs
  refine runMove_ok (f := commitBz f) hv hp ha ?_
  rw [commitBz, needPort_chargeSlot _ hx]
  simp only [branchTarget_chargeSlot, ht, sval_eq_zero_iff, ite_takeBranch]

theorem exec_bnz (hs : Ready s (.bnz f m) v) (hx : s.me.port .brX = some x)
    (ht : branchTarget s.me f (sval v) = some d) :
    exec (.bnz f m) s = .next (((s.chargeSlot (.bnz f m)).onMe fun k =>
      { k with bs := { k.bs with branch := if lo64 x = 0 then k.bs.branch else some d } }).flushDeferred) := by
  obtain ⟨hv, hp, ha⟩ := hs
  refine runMove_ok (f := commitBnz f) hv hp ha ?_
  rw [commitBnz, needPort_chargeSlot _ hx]
  simp only [branchTarget_chargeSlot, ht, ne_eq, sval_eq_zero_iff]
  rw [ite_takeBranch]
  simp only [ite_not]

theorem exec_call {r : Option RegName} (hs : Ready s (.call f m) v) (ht : branchTarget s.me f (sval v) = some d)
    (hr : destOf s .s m.k .brTo = some r) :
    exec (.call f m) s = .next (takeBranch (delivers (s.chargeSlot (.call f m)) .br .s r
      (wide (if s.me.following.seg = 0 then 0 else s.me.following.abs)) 0 1 none) d).flushDeferred := by
  obtain ⟨hv, hp, ha⟩ := hs
  refine runMove_ok (f := commitCall f m.k) hv hp ha ?_
  simp only [commitCall, branchTarget_chargeSlot, ht, deliver_of_destOf _ _ _ _ _ hr, ofNat_link, following_chargeSlot]

end Triggers

/-- Settles O14: the two forms of a target, and each branch from its commit; a call delivers its link before it is
taken. -/
theorem branchesDecideTheNextBundle : Obligations.BranchesDecideTheNextBundle := by
  refine ⟨fun k v hv => ⟨branchTarget_abs k hv, fun hk => branchTarget_seg hk v⟩, ?_, ?_, ?_, ?_, ?_⟩
  · exact fun s f m v d => exec_jmp
  · exact fun s f m v x d => exec_bz
  · exact fun s f m v x d => exec_bnz
  · exact fun s f m v d r => exec_call
  · exact fun s f m v => exec_jmp_illopd

end Sys2Proof.Machine
end

section
/-! SUPPORT. The statement on slice operations: the checks that a commit passes in the state its slot was charged in, and
the request that each trigger makes (R96, R169, R272 to R274). -/

namespace Sys2Proof.Machine

open Sys2Proof.Claims

/-! ### Checks in the state the slot was charged in -/

theorem pendingReport_chargeSlot (s : State) (i : Instr) (rel : Bool) :
    (s.chargeSlot i).me.pendingReport rel = s.me.pendingReport rel := by
  obtain ⟨pc', hme⟩ := s.chargeSlot_me_form i
  rw [hme]
  rfl

theorem slotsTaken_chargeSlot (s : State) (i : Instr) : (s.chargeSlot i).slotsTaken s.cur = s.slotsTaken s.cur := by
  obtain ⟨pc', hme⟩ := s.chargeSlot_me_form i
  rw [State.me, State.chargeSlot_cur] at hme
  rw [State.slotsTaken, State.reqsOf, State.chargeSlot_reqs, State.chargeSlot_now, hme]
  rfl

theorem slotsFull_chargeSlot (s : State) (i : Instr) (n : Nat) : slotsFull (s.chargeSlot i) n = slotsFull s n := by
  rw [slotsFull, State.noSlots, State.chargeSlot_cur, slotsTaken_chargeSlot, ← State.noSlots, ← slotsFull]

/-- A handle that passes its check is used (R160). -/
theorem withHandle_chargeSlot {s : State} {i : Instr} {p : Port} {hv : V512} {off n : Nat} {perm : Perm}
    (f : Handle → Commit) (hp : s.me.port p = some hv)
    (hc : checkHandle (BitVec.ofNat 128 hv.toNat) s.me.ctx off n perm = none) :
    withHandle (s.chargeSlot i) p off n perm f = f (BitVec.ofNat 128 hv.toNat) := by
  simp only [withHandle, needPort_chargeSlot _ hp, State.chargeSlot_me_ctx, hc]

/-- Nothing to report before the operation (R166, R319). -/
theorem reportsOf_chargeSlot {s : State} {i : Instr} {ord : Nat} (f : Commit)
    (h : ord ≠ 0 → s.me.pendingReport (decide (2 ≤ ord)) = none) : reportsOf (s.chargeSlot i) ord f = f := by
  rw [reportsOf]
  split
  · rfl
  · next hord => simp only [reportFirst, pendingReport_chargeSlot, h hord]

/-- A free request slot, and no race to carry (R164, R327). -/
theorem orderedOp_free {c : State} {ord : Nat} {sc : Sc} {race : Option W64} (f : Commit)
    (hfull : slotsFull c 1 = false) (hrace : 2 ≤ ord → sc = .sys → race = none) : orderedOp c ord sc race f = f := by
  have hnone : (if 2 ≤ ord ∧ sc = .sys then race else none) = none := by
    split
    · next h => exact hrace h.1 h.2
    · rfl
  simp only [orderedOp, hfull, Bool.false_eq_true, if_false, hnone]

/-- A release that carries no race carries none of its dirty lines (R327). -/
theorem carriedRace_of_releaseRace {c : State} {sliceOp : Bool} {pa n : Nat}
    (h : c.releaseRace sliceOp pa n = none) : c.carriedRace = none := by
  rw [State.releaseRace] at h
  split at h
  · cases h
  · assumption

/-! ### The triggers -/

section Triggers

variable {s : State} {m : Mv} {v hv x mo y : V512} {d : Option RegName}

/-- The request of LOCK, UNLOCK and CLRD through the handle in ls.h (R169, R272). -/
theorem lockReq_asksSlice {i : Instr} {kind : ReqKind} {cls : ResClass} {keep : Bool} (hh : s.me.port .lsH = some hv)
    (hc : checkHandle (BitVec.ofNat 128 hv.toNat) s.me.ctx (sval v) 1 .a = none) (hfull : slotsFull s 1 = false)
    (hd : destOf s cls keep .lsTo = some d) :
    lockReq (s.chargeSlot i) kind cls keep v = .ok (asksSlice (s.chargeSlot i) cls d kind hv (sval v) 1 0
      [lineOf (Handle.pbase (BitVec.ofNat 128 hv.toNat) + sval v)]) := by
  simp only [lockReq, withHandle_chargeSlot _ hh hc, withDest_of_destOf _ hd, slotsFull_chargeSlot, hfull]
  rfl

theorem exec_lock (hs : Ready s (.lock m) v) (hh : s.me.port .lsH = some hv)
    (hc : checkHandle (BitVec.ofNat 128 hv.toNat) s.me.ctx (sval v) 1 .a = none) (hfull : slotsFull s 1 = false)
    (hd : destOf s .s m.k .lsTo = some d) :
    exec (.lock m) s = .next (asksSlice (s.chargeSlot (.lock m)) .s d .lock hv (sval v) 1 0
      [lineOf (Handle.pbase (BitVec.ofNat 128 hv.toNat) + sval v)]).flushDeferred := by
  obtain ⟨hval, hp, ha⟩ := hs
  exact runMove_ok (f := commitLock m.k) hval hp ha (lockReq_asksSlice hh hc hfull hd)

theorem exec_unlock (hs : Ready s (.unlock m) v) (hh : s.me.port .lsH = some hv)
    (hc : checkHandle (BitVec.ofNat 128 hv.toNat) s.me.ctx (sval v) 1 .a = none) (hfull : slotsFull s 1 = false) :
    exec (.unlock m) s = .next (asksSlice (s.chargeSlot (.unlock m)) .latch none .unlock hv (sval v) 1 0
      [lineOf (Handle.pbase (BitVec.ofNat 128 hv.toNat) + sval v)]).flushDeferred := by
  obtain ⟨hval, hp, ha⟩ := hs
  exact runMove_ok (f := commitUnlock) hval hp ha (lockReq_asksSlice hh hc hfull rfl)

theorem exec_clrd (hs : Ready s (.clrd m) v) (hh : s.me.port .lsH = some hv) (hx : s.me.port .lsX = some x)
    (hal : sval x % 128 = 0) (hin : sval x + 128 ≤ 0x80000)
    (hc : checkHandle (BitVec.ofNat 128 hv.toNat) s.me.ctx (sval v) 1 .a = none) (hfull : slotsFull s 1 = false)
    (hd : destOf s .s m.k .lsTo = some d) :
    exec (.clrd m) s = .next (asksSlice (s.chargeSlot (.clrd m)) .s d (.clrd (sval x)) hv (sval v) 1 0
      [lineOf (Handle.pbase (BitVec.ofNat 128 hv.toNat) + sval v)]).flushDeferred := by
  obtain ⟨hval, hp, ha⟩ := hs
  refine runMove_ok (f := commitClrd m.k) hval hp ha ?_
  simp only [commitClrd, needPort_chargeSlot _ hh, needPort_chargeSlot _ hx, withHandle_chargeSlot _ hh hc, hal,
    Nat.not_lt.2 hin, withDest_of_destOf _ hd, slotsFull_chargeSlot, hfull]
  rfl

theorem sval_zero : sval 0 = 0 := (sval_eq_zero_iff 0).2 (BitVec.setWidth_zero 64 512)

/-- What ATOM refuses of its memory-order word and ports (R96, R272). -/
theorem atom_accepts {i : Instr} {op : Ao} (hy : s.me.port .lsY = some y ∨ (op ≠ .acas ∧ s.me.port .lsY = none ∧ y = 0))
    (hmo : sval mo < 64) (huns : bit (sval mo) 5 = true → op = .amin ∨ op = .amax) :
    ¬((op = .acas ∧ ((s.chargeSlot i).me.port .lsY).isNone) ∨ 64 ≤ sval mo ∨
      (bit (sval mo) 5 ∧ op ≠ .amin ∧ op ≠ .amax)) := by
  rw [State.chargeSlot_me_port]
  rintro (⟨hop, hnone⟩ | hbig | ⟨hbit, hmin, hmax⟩)
  · rcases hy with hy | ⟨hne, -, -⟩
    · rw [hy] at hnone
      cases hnone
    · exact hne hop
  · exact Nat.not_le.2 hmo hbig
  · exact (huns hbit).elim hmin hmax

theorem exec_atom {op : Ao} (hs : Ready s (.atom op m) v) (hh : s.me.port .lsH = some hv)
    (hx : s.me.port .lsX = some x) (hm : s.me.port .lsMo = some mo)
    (hy : s.me.port .lsY = some y ∨ (op ≠ .acas ∧ s.me.port .lsY = none ∧ y = 0)) (hmo : sval mo < 64)
    (huns : bit (sval mo) 5 = true → op = .amin ∨ op = .amax) :
    let n := if bit (sval mo) 4 then 8 else 4
    let c := s.chargeSlot (.atom op m)
    checkHandle (BitVec.ofNat 128 hv.toNat) s.me.ctx (sval x) n .a = none →
    destOf s .s m.k .lsTo = some d → OrderFree s c (moOrd (sval mo)) →
    (2 ≤ moOrd (sval mo) → moScope (sval mo) = .sys →
      c.releaseRace true (Handle.pbase (BitVec.ofNat 128 hv.toNat) + sval x) n = none) →
    exec (.atom op m) s = .next (asksSlice c .s d (.atom op (zx (sval y) (8 * n)) (bit (sval mo) 5)
      (moOrd (sval mo)) (moScope (sval mo))) hv (sval x) n (zx (sval v) (8 * n))
      [lineOf (Handle.pbase (BitVec.ofNat 128 hv.toNat) + sval x)]).flushDeferred := by
  intro n c hc hd ⟨hrep, hfull⟩ hrace
  obtain ⟨hval, hp, ha⟩ := hs
  refine runMove_ok (f := commitAtom op m.k) hval hp ha ?_
  have hnone (p : Prop) [Decidable p] (h2 : 2 ≤ moOrd (sval mo)) (hsys : moScope (sval mo) = .sys) :
      (if p then c.releaseRace true (Handle.pbase (BitVec.ofNat 128 hv.toNat) + sval x) n else c.carriedRace) = none := by
    split
    · exact hrace h2 hsys
    · exact carriedRace_of_releaseRace (hrace h2 hsys)
  simp only [commitAtom, needPort_chargeSlot _ hh, needPort_chargeSlot _ hx, needPort_chargeSlot _ hm,
    atom_accepts hy hmo huns, if_false, reportsOf_chargeSlot _ hrep]
  rw [withHandle_chargeSlot _ hh hc, withDest_of_destOf _ hd, orderedOp_free _ hfull (hnone _)]
  rcases hy with hy | ⟨-, hy, rfl⟩
  · simp only [State.chargeSlot_me_port, hy]
    rfl
  · simp only [State.chargeSlot_me_port, hy, sval_zero]
    rfl

theorem exec_cms (hs : Ready s (.cms m) v) (hh : s.me.port .lsH = some hv) (hx : s.me.port .lsX = some x)
    (hy : s.me.port .lsY = some y) (hm : s.me.port .lsMo = some mo) :
    let h : Handle := BitVec.ofNat 128 hv.toNat
    let off := sval v / 512 * 512
    let c := s.chargeSlot (.cms m)
    bits (sval v) 3 0 ≠ 0 → bit (sval v) 8 = false → sval mo < 16 → h.v = true → h.ctx = s.me.ctx.toNat →
    off + 512 ≤ h.size → h.pa = true → sval x % 128 = 0 → sval x + 512 ≤ 0x80000 →
    destOf s .s m.k .lsTo = some d → OrderFree s c (moOrd (sval mo)) →
    (2 ≤ moOrd (sval mo) → moScope (sval mo) = .sys → c.carriedRace = none) →
    let l := lineOf (h.pbase + off)
    let a := asksSlice c .s d (.cms (bits (sval v) 3 0) (bits (sval v) 7 4) (sval y) (moOrd (sval mo))
      (moScope (sval mo))) hv off 512 0 [l, l + 1, l + 2, l + 3]
    exec (.cms m) s = .next ((List.range 8).foldl (fun t i => if bit (bits (sval v) 3 0) (i / 2)
      then t.lsSlot3 (sval x + 64 * i) else t) (a.defer (.images (a.nextId - 1) (sval x)))).flushDeferred := by
  intro h off c hcm hb8 hmo hhv hctx hsize hpa hal hin hd ⟨hrep, hfull⟩ hrace l a
  obtain ⟨hval, hp, ha⟩ := hs
  have hword : ¬(bits (sval v) 3 0 = 0 ∨ bit (sval v) 8 ∨ 16 ≤ sval mo) := by
    rintro (hz | hb | hbig)
    · exact hcm hz
    · exact Bool.false_ne_true (hb8.symm.trans hb)
    · exact Nat.not_le.2 hmo hbig
  have hlive : ¬(!h.v || h.ctx != (s.chargeSlot (.cms m)).me.ctx.toNat) = true := by
    rw [State.chargeSlot_me_ctx, hhv, hctx, bne_self_eq_false]
    exact Bool.false_ne_true
  have hperm : ¬(!h.pa) = true := by rw [hpa]; exact Bool.false_ne_true
  refine runMove_ok (f := commitCms m.k) hval hp ha ?_
  simp only [commitCms, needPort_chargeSlot _ hh, needPort_chargeSlot _ hx, needPort_chargeSlot _ hy,
    needPort_chargeSlot _ hm]
  rw [if_neg hword, reportsOf_chargeSlot _ hrep, if_neg hlive, if_neg (Nat.not_lt.2 hsize), if_neg hperm,
    if_neg (fun hne => hne hal), if_neg (Nat.not_lt.2 hin), withDest_of_destOf _ hd, orderedOp_free _ hfull hrace]
  rfl

end Triggers

/-- Settles O20: each trigger passes its checks in the state its slot was charged in and asks its slice. -/
theorem sliceOperationsAreAsked : Obligations.SliceOperationsAreAsked := by
  refine ⟨?_, ?_, ?_, ?_, ?_⟩
  · exact fun s op m v hv x mo y d => exec_atom
  · exact fun s m v hv x d => exec_clrd
  · exact fun s m v hv x y mo d => exec_cms
  · exact fun s m v hv d => exec_lock
  · exact fun s m v hv => exec_unlock

end Sys2Proof.Machine
end
